-- ==== Sys2Proof/Word.lean ====
section
/-! DEFINITION. The widths every layer shares: words, bytes, register numbers (spec 00_scope.md R5, R9, R10). -/
namespace Sys2Proof

/-- A register, an address or an instruction word: 32 bits (R5, R20). -/
abbrev Word := BitVec 32

/-- The smallest addressable unit (R73). -/
abbrev Byte := BitVec 8

/-- The number of a general register in an instruction: 4 bits (R20). -/
abbrev RegNum := BitVec 4

end Sys2Proof
end

