-- ==== Sys2Proof/Config.lean ====
section
/-! DEFINITION. What the implementation fixes and the spec leaves open: the sources of free values (`any value` of
00_scope.md R11). None has a body that a proof could use: a claim holds whatever they are. -/
namespace Sys2Proof.Config

/-- The `n`-th free value the machine draws (R11 `any value`, log entry 4). `State.freeIdx` counts the draws. -/
opaque freeWord : Nat → Word

/-- The byte at offset `n` of the boot block, parameter `BOOT_ROM` (R8, R90, D13; log entry 3). -/
opaque bootRom : Nat → Byte

/-- How many step boundaries the PLL takes to lock, by draw (R553: the source gives no lock time; log entry 9). -/
opaque pllLockSteps : Nat → Nat

/-- How many step boundaries the main oscillator takes to start, by draw (R548; log entry 9). -/
opaque oscStartSteps : Nat → Nat

end Sys2Proof.Config
end

