-- ==== Sys2Proof/Syntax.lean ====
section
/-! DEFINITION. The instructions: one constructor of `Instr` per row of spec/opcode_table.json, with the operand fields
of that row's encoding (30_encoding.md R124 to R146). -/
namespace Sys2Proof

/-- The condition field (R171, Table 3.1). The sixteenth value, 1111, is no condition (R148). -/
inductive Cond where
  | eq | ne | cs | cc | mi | pl | vs | vc | hi | ls | ge | lt | gt | le | al
  deriving DecidableEq, Repr

/-- The shift of a register operand (R127, R179 to R183). -/
inductive ShiftKind where
  | lsl | lsr | asr | ror
  deriving DecidableEq, Repr

/-- The immediate operand 2: `imm8` rotated right by twice `rot` (R126). -/
structure RotImm where
  rot : BitVec 4
  imm8 : BitVec 8
  deriving DecidableEq, Repr

/-- A register shifted by an immediate (R127). -/
structure ShiftImm where
  rm : RegNum
  kind : ShiftKind
  amount : BitVec 5
  deriving DecidableEq, Repr

/-- A register shifted by the low byte of a register (R128). -/
structure ShiftReg where
  rm : RegNum
  kind : ShiftKind
  rs : RegNum
  deriving DecidableEq, Repr

/-- The instructions of the spec, in the order of spec/opcode_table.json. `c` is the condition, `s` the S bit, `u` 1 for
an added offset, `w` the ! suffix. -/
inductive Instr where
  /-- AND, operand 2 immediate (R266). -/
  | andImm (c : Cond) (s : Bool) (rn rd : RegNum) (op : RotImm)
  /-- AND, operand 2 register, immediate shift (R266). -/
  | andShiftImm (c : Cond) (s : Bool) (rn rd : RegNum) (op : ShiftImm)
  /-- AND, operand 2 register, register shift (R266). -/
  | andShiftReg (c : Cond) (s : Bool) (rn rd : RegNum) (op : ShiftReg)
  /-- EOR, operand 2 immediate (R268). -/
  | eorImm (c : Cond) (s : Bool) (rn rd : RegNum) (op : RotImm)
  /-- EOR, operand 2 register, immediate shift (R268). -/
  | eorShiftImm (c : Cond) (s : Bool) (rn rd : RegNum) (op : ShiftImm)
  /-- EOR, operand 2 register, register shift (R268). -/
  | eorShiftReg (c : Cond) (s : Bool) (rn rd : RegNum) (op : ShiftReg)
  /-- SUB, operand 2 immediate (R262). -/
  | subImm (c : Cond) (s : Bool) (rn rd : RegNum) (op : RotImm)
  /-- SUB, operand 2 register, immediate shift (R262). -/
  | subShiftImm (c : Cond) (s : Bool) (rn rd : RegNum) (op : ShiftImm)
  /-- SUB, operand 2 register, register shift (R262). -/
  | subShiftReg (c : Cond) (s : Bool) (rn rd : RegNum) (op : ShiftReg)
  /-- RSB, operand 2 immediate (R264). -/
  | rsbImm (c : Cond) (s : Bool) (rn rd : RegNum) (op : RotImm)
  /-- RSB, operand 2 register, immediate shift (R264). -/
  | rsbShiftImm (c : Cond) (s : Bool) (rn rd : RegNum) (op : ShiftImm)
  /-- RSB, operand 2 register, register shift (R264). -/
  | rsbShiftReg (c : Cond) (s : Bool) (rn rd : RegNum) (op : ShiftReg)
  /-- ADD, operand 2 immediate (R260). -/
  | addImm (c : Cond) (s : Bool) (rn rd : RegNum) (op : RotImm)
  /-- ADD, operand 2 register, immediate shift (R260). -/
  | addShiftImm (c : Cond) (s : Bool) (rn rd : RegNum) (op : ShiftImm)
  /-- ADD, operand 2 register, register shift (R260). -/
  | addShiftReg (c : Cond) (s : Bool) (rn rd : RegNum) (op : ShiftReg)
  /-- ADC, operand 2 immediate (R261). -/
  | adcImm (c : Cond) (s : Bool) (rn rd : RegNum) (op : RotImm)
  /-- ADC, operand 2 register, immediate shift (R261). -/
  | adcShiftImm (c : Cond) (s : Bool) (rn rd : RegNum) (op : ShiftImm)
  /-- ADC, operand 2 register, register shift (R261). -/
  | adcShiftReg (c : Cond) (s : Bool) (rn rd : RegNum) (op : ShiftReg)
  /-- SBC, operand 2 immediate (R263). -/
  | sbcImm (c : Cond) (s : Bool) (rn rd : RegNum) (op : RotImm)
  /-- SBC, operand 2 register, immediate shift (R263). -/
  | sbcShiftImm (c : Cond) (s : Bool) (rn rd : RegNum) (op : ShiftImm)
  /-- SBC, operand 2 register, register shift (R263). -/
  | sbcShiftReg (c : Cond) (s : Bool) (rn rd : RegNum) (op : ShiftReg)
  /-- RSC, operand 2 immediate (R265). -/
  | rscImm (c : Cond) (s : Bool) (rn rd : RegNum) (op : RotImm)
  /-- RSC, operand 2 register, immediate shift (R265). -/
  | rscShiftImm (c : Cond) (s : Bool) (rn rd : RegNum) (op : ShiftImm)
  /-- RSC, operand 2 register, register shift (R265). -/
  | rscShiftReg (c : Cond) (s : Bool) (rn rd : RegNum) (op : ShiftReg)
  /-- TST, operand 2 immediate (R258). -/
  | tstImm (c : Cond) (rn : RegNum) (op : RotImm)
  /-- TST, operand 2 register, immediate shift (R258). -/
  | tstShiftImm (c : Cond) (rn : RegNum) (op : ShiftImm)
  /-- TST, operand 2 register, register shift (R258). -/
  | tstShiftReg (c : Cond) (rn : RegNum) (op : ShiftReg)
  /-- TEQ, operand 2 immediate (R259). -/
  | teqImm (c : Cond) (rn : RegNum) (op : RotImm)
  /-- TEQ, operand 2 register, immediate shift (R259). -/
  | teqShiftImm (c : Cond) (rn : RegNum) (op : ShiftImm)
  /-- TEQ, operand 2 register, register shift (R259). -/
  | teqShiftReg (c : Cond) (rn : RegNum) (op : ShiftReg)
  /-- CMP, operand 2 immediate (R256). -/
  | cmpImm (c : Cond) (rn : RegNum) (op : RotImm)
  /-- CMP, operand 2 register, immediate shift (R256). -/
  | cmpShiftImm (c : Cond) (rn : RegNum) (op : ShiftImm)
  /-- CMP, operand 2 register, register shift (R256). -/
  | cmpShiftReg (c : Cond) (rn : RegNum) (op : ShiftReg)
  /-- CMN, operand 2 immediate (R257). -/
  | cmnImm (c : Cond) (rn : RegNum) (op : RotImm)
  /-- CMN, operand 2 register, immediate shift (R257). -/
  | cmnShiftImm (c : Cond) (rn : RegNum) (op : ShiftImm)
  /-- CMN, operand 2 register, register shift (R257). -/
  | cmnShiftReg (c : Cond) (rn : RegNum) (op : ShiftReg)
  /-- ORR, operand 2 immediate (R267). -/
  | orrImm (c : Cond) (s : Bool) (rn rd : RegNum) (op : RotImm)
  /-- ORR, operand 2 register, immediate shift (R267). -/
  | orrShiftImm (c : Cond) (s : Bool) (rn rd : RegNum) (op : ShiftImm)
  /-- ORR, operand 2 register, register shift (R267). -/
  | orrShiftReg (c : Cond) (s : Bool) (rn rd : RegNum) (op : ShiftReg)
  /-- MOV, operand 2 immediate (R254). -/
  | movImm (c : Cond) (s : Bool) (rd : RegNum) (op : RotImm)
  /-- MOV, operand 2 register, immediate shift (R254). -/
  | movShiftImm (c : Cond) (s : Bool) (rd : RegNum) (op : ShiftImm)
  /-- MOV, operand 2 register, register shift (R254). -/
  | movShiftReg (c : Cond) (s : Bool) (rd : RegNum) (op : ShiftReg)
  /-- BIC, operand 2 immediate (R269). -/
  | bicImm (c : Cond) (s : Bool) (rn rd : RegNum) (op : RotImm)
  /-- BIC, operand 2 register, immediate shift (R269). -/
  | bicShiftImm (c : Cond) (s : Bool) (rn rd : RegNum) (op : ShiftImm)
  /-- BIC, operand 2 register, register shift (R269). -/
  | bicShiftReg (c : Cond) (s : Bool) (rn rd : RegNum) (op : ShiftReg)
  /-- MVN, operand 2 immediate (R255). -/
  | mvnImm (c : Cond) (s : Bool) (rd : RegNum) (op : RotImm)
  /-- MVN, operand 2 register, immediate shift (R255). -/
  | mvnShiftImm (c : Cond) (s : Bool) (rd : RegNum) (op : ShiftImm)
  /-- MVN, operand 2 register, register shift (R255). -/
  | mvnShiftReg (c : Cond) (s : Bool) (rd : RegNum) (op : ShiftReg)
  /-- MUL Rd,Rm,Rs (R293). -/
  | mul (c : Cond) (s : Bool) (rd rs rm : RegNum)
  /-- MLA Rd,Rm,Rs,Rn (R294). -/
  | mla (c : Cond) (s : Bool) (rd rn rs rm : RegNum)
  /-- UMULL RdLo,RdHi,Rm,Rs (R297). -/
  | umull (c : Cond) (s : Bool) (rdHi rdLo rs rm : RegNum)
  /-- UMLAL RdLo,RdHi,Rm,Rs (R298). -/
  | umlal (c : Cond) (s : Bool) (rdHi rdLo rs rm : RegNum)
  /-- SMULL RdLo,RdHi,Rm,Rs (R295). -/
  | smull (c : Cond) (s : Bool) (rdHi rdLo rs rm : RegNum)
  /-- SMLAL RdLo,RdHi,Rm,Rs (R296). -/
  | smlal (c : Cond) (s : Bool) (rdHi rdLo rs rm : RegNum)
  /-- SWP Rd,Rm,[Rn] (R226). -/
  | swp (c : Cond) (rn rd rm : RegNum)
  /-- SWPB Rd,Rm,[Rn] (R227). -/
  | swpb (c : Cond) (rn rd rm : RegNum)
  /-- LDRH, immediate offset, offset or pre-indexed (R207, R202). -/
  | ldrhImmPre (c : Cond) (u w : Bool) (rn rd : RegNum) (imm : BitVec 8)
  /-- LDRH, immediate offset, post-indexed (R207, R202). -/
  | ldrhImmPost (c : Cond) (u : Bool) (rn rd : RegNum) (imm : BitVec 8)
  /-- LDRH, register offset, offset or pre-indexed (R207, R202). -/
  | ldrhRegPre (c : Cond) (u w : Bool) (rn rd rm : RegNum)
  /-- LDRH, register offset, post-indexed (R207, R202). -/
  | ldrhRegPost (c : Cond) (u : Bool) (rn rd rm : RegNum)
  /-- STRH, immediate offset, offset or pre-indexed (R208, R202). -/
  | strhImmPre (c : Cond) (u w : Bool) (rn rd : RegNum) (imm : BitVec 8)
  /-- STRH, immediate offset, post-indexed (R208, R202). -/
  | strhImmPost (c : Cond) (u : Bool) (rn rd : RegNum) (imm : BitVec 8)
  /-- STRH, register offset, offset or pre-indexed (R208, R202). -/
  | strhRegPre (c : Cond) (u w : Bool) (rn rd rm : RegNum)
  /-- STRH, register offset, post-indexed (R208, R202). -/
  | strhRegPost (c : Cond) (u : Bool) (rn rd rm : RegNum)
  /-- LDRSB, immediate offset, offset or pre-indexed (R209, R202). -/
  | ldrsbImmPre (c : Cond) (u w : Bool) (rn rd : RegNum) (imm : BitVec 8)
  /-- LDRSB, immediate offset, post-indexed (R209, R202). -/
  | ldrsbImmPost (c : Cond) (u : Bool) (rn rd : RegNum) (imm : BitVec 8)
  /-- LDRSB, register offset, offset or pre-indexed (R209, R202). -/
  | ldrsbRegPre (c : Cond) (u w : Bool) (rn rd rm : RegNum)
  /-- LDRSB, register offset, post-indexed (R209, R202). -/
  | ldrsbRegPost (c : Cond) (u : Bool) (rn rd rm : RegNum)
  /-- LDRSH, immediate offset, offset or pre-indexed (R210, R202). -/
  | ldrshImmPre (c : Cond) (u w : Bool) (rn rd : RegNum) (imm : BitVec 8)
  /-- LDRSH, immediate offset, post-indexed (R210, R202). -/
  | ldrshImmPost (c : Cond) (u : Bool) (rn rd : RegNum) (imm : BitVec 8)
  /-- LDRSH, register offset, offset or pre-indexed (R210, R202). -/
  | ldrshRegPre (c : Cond) (u w : Bool) (rn rd rm : RegNum)
  /-- LDRSH, register offset, post-indexed (R210, R202). -/
  | ldrshRegPost (c : Cond) (u : Bool) (rn rd rm : RegNum)
  /-- LDR, immediate offset, offset or pre-indexed (R203, R201). -/
  | ldrImmPre (c : Cond) (u w : Bool) (rn rd : RegNum) (imm : BitVec 12)
  /-- LDR, immediate offset, post-indexed (R203, R201). -/
  | ldrImmPost (c : Cond) (u : Bool) (rn rd : RegNum) (imm : BitVec 12)
  /-- LDR, register offset, offset or pre-indexed (R203, R201). -/
  | ldrRegPre (c : Cond) (u w : Bool) (rn rd : RegNum) (off : ShiftImm)
  /-- LDR, register offset, post-indexed (R203, R201). -/
  | ldrRegPost (c : Cond) (u : Bool) (rn rd : RegNum) (off : ShiftImm)
  /-- STR, immediate offset, offset or pre-indexed (R204, R201). -/
  | strImmPre (c : Cond) (u w : Bool) (rn rd : RegNum) (imm : BitVec 12)
  /-- STR, immediate offset, post-indexed (R204, R201). -/
  | strImmPost (c : Cond) (u : Bool) (rn rd : RegNum) (imm : BitVec 12)
  /-- STR, register offset, offset or pre-indexed (R204, R201). -/
  | strRegPre (c : Cond) (u w : Bool) (rn rd : RegNum) (off : ShiftImm)
  /-- STR, register offset, post-indexed (R204, R201). -/
  | strRegPost (c : Cond) (u : Bool) (rn rd : RegNum) (off : ShiftImm)
  /-- LDRB, immediate offset, offset or pre-indexed (R205, R201). -/
  | ldrbImmPre (c : Cond) (u w : Bool) (rn rd : RegNum) (imm : BitVec 12)
  /-- LDRB, immediate offset, post-indexed (R205, R201). -/
  | ldrbImmPost (c : Cond) (u : Bool) (rn rd : RegNum) (imm : BitVec 12)
  /-- LDRB, register offset, offset or pre-indexed (R205, R201). -/
  | ldrbRegPre (c : Cond) (u w : Bool) (rn rd : RegNum) (off : ShiftImm)
  /-- LDRB, register offset, post-indexed (R205, R201). -/
  | ldrbRegPost (c : Cond) (u : Bool) (rn rd : RegNum) (off : ShiftImm)
  /-- STRB, immediate offset, offset or pre-indexed (R206, R201). -/
  | strbImmPre (c : Cond) (u w : Bool) (rn rd : RegNum) (imm : BitVec 12)
  /-- STRB, immediate offset, post-indexed (R206, R201). -/
  | strbImmPost (c : Cond) (u : Bool) (rn rd : RegNum) (imm : BitVec 12)
  /-- STRB, register offset, offset or pre-indexed (R206, R201). -/
  | strbRegPre (c : Cond) (u w : Bool) (rn rd : RegNum) (off : ShiftImm)
  /-- STRB, register offset, post-indexed (R206, R201). -/
  | strbRegPost (c : Cond) (u : Bool) (rn rd : RegNum) (off : ShiftImm)
  /-- LDM (R222, R223): `p u` the type, `s` the ^ suffix, `w` the ! suffix. -/
  | ldm (c : Cond) (p u s w : Bool) (rn : RegNum) (list : BitVec 16)
  /-- STM (R224). -/
  | stm (c : Cond) (p u s w : Bool) (rn : RegNum) (list : BitVec 16)
  /-- B (R312). -/
  | b (c : Cond) (imm : BitVec 24)
  /-- BL (R313). -/
  | bl (c : Cond) (imm : BitVec 24)
  /-- BX (R314). -/
  | bx (c : Cond) (rm : RegNum)
  /-- BLX, register form (R316). -/
  | blxReg (c : Cond) (rm : RegNum)
  /-- BLX, immediate form, unconditional (R315). -/
  | blxImm (h : Bool) (imm : BitVec 24)
  /-- MRS (R331): `r` selects the SPSR. -/
  | mrs (c : Cond) (r : Bool) (rd : RegNum)
  /-- MSR, register operand (R332): `mask` is f s x c. -/
  | msrReg (c : Cond) (r : Bool) (mask : BitVec 4) (rm : RegNum)
  /-- MSR, immediate operand (R332). -/
  | msrImm (c : Cond) (r : Bool) (mask : BitVec 4) (op : RotImm)
  /-- CDP (R343). -/
  | cdp (c : Cond) (op1 : BitVec 4) (crn crd cp : BitVec 4) (op2 : BitVec 3) (crm : BitVec 4)
  /-- LDC (R344): `n` is the long-transfer bit. -/
  | ldc (c : Cond) (p u n w : Bool) (rn : RegNum) (crd cp : BitVec 4) (off : BitVec 8)
  /-- STC (R345). -/
  | stc (c : Cond) (p u n w : Bool) (rn : RegNum) (crd cp : BitVec 4) (off : BitVec 8)
  /-- MCR (R346). -/
  | mcr (c : Cond) (op1 : BitVec 3) (crn : BitVec 4) (rd : RegNum) (cp : BitVec 4) (op2 : BitVec 3) (crm : BitVec 4)
  /-- MRC (R347). -/
  | mrc (c : Cond) (op1 : BitVec 3) (crn : BitVec 4) (rd : RegNum) (cp : BitVec 4) (op2 : BitVec 3) (crm : BitVec 4)
  /-- SWI (R361). -/
  | swi (c : Cond) (imm : BitVec 24)
  /-- BKPT, unconditional (R362). -/
  | bkpt (imm : BitVec 16)
  /-- The undefined space `cond 011 .. 1 ..` (R146): `hi` bits 24:5, `lo` bits 3:0. -/
  | undefMem (c : Cond) (hi : BitVec 20) (lo : BitVec 4)
  /-- The undefined space `cond 0011 0 y 00 ..` (R146, R123 step 16). -/
  | undefMsr (c : Cond) (y : Bool) (lo : BitVec 20)
  /-- `LDR Rd,=value` (R381): `u`, `off` are the literal-pool offset the assembler uses where it emits a load. -/
  | ldrPseudo (c : Cond) (rd : RegNum) (value : Word) (u : Bool) (off : BitVec 12)
  /-- ADR (R382): ADD (`u`) or SUB Rd,PC,#op. -/
  | adr (c : Cond) (rd : RegNum) (u : Bool) (op : RotImm)
  /-- ADRL (R383): two ADDs (`u`) or SUBs, Rd,PC,#op1 then Rd,Rd,#op2. -/
  | adrl (c : Cond) (rd : RegNum) (u : Bool) (op1 op2 : RotImm)
  /-- NOP (R384): MOV R0,R0. -/
  | nop
  deriving DecidableEq, Repr

end Sys2Proof
end

