-- ==== Sys2Proof/WellFormed.lean ====
section
/-! DEFINITION. Which instructions are well formed: the operand combinations that the spec calls UNPREDICTABLE and refuses
(70_reset_and_hazards.md R651, D6), found from the instruction alone. A form that is UNPREDICTABLE only in some machine
state (an SPSR form in User mode) is checked by its meaning instead. -/
namespace Sys2Proof

/-- Why an instruction is ill formed. A meaning refuses such an instruction once its condition has passed
(log entry 10); safe, since the spec gives no effect. -/
inductive IllFormed where
  /-- R15 in a register-shifted operand form (R185). -/
  | shiftByRegisterPc
  /-- R15 in a multiply (R291 b). -/
  | multiplyPc
  /-- Rd = Rm in MUL or MLA; RdLo, RdHi, Rm not distinct in a long multiply (R291 a). -/
  | multiplySameRegister
  /-- R15 as offset register (R201, R202). -/
  | offsetPc
  /-- Write-back to R15 (R201; by LDC and STC, R344, where a coprocessor is present, log entry 43). -/
  | writebackPc
  /-- Write-back to the register transferred (R201). -/
  | writebackTransferred
  /-- R15 transferred by a byte or halfword form (R205 to R210). -/
  | narrowTransferPc
  /-- An LDM or STM with an empty list (R222, R224). -/
  | emptyList
  /-- R15 as base of an LDM or STM (R222, R224). -/
  | blockBasePc
  /-- An LDM with write-back and the base in the list (R222). -/
  | loadBaseInList
  /-- An STM with write-back and the base in the list but not lowest (R224). -/
  | storeBaseNotLowest
  /-- A User-bank transfer with write-back (R222, R224). -/
  | userBankWriteback
  /-- R15 in a swap (R226; for SWPB log entry 37). -/
  | swapPc
  /-- Rn = Rm or Rn = Rd in a swap (R226; for SWPB log entry 37). -/
  | swapSameRegister
  /-- R15 as destination of MRS (R331). -/
  | mrsPc
  /-- R15 as source of MSR (R332). -/
  | msrPc
  /-- R15 as target of BLX (R316). -/
  | blxPc
  /-- LDC or STC with P = U = W = 0, no instruction of the spec (R138, R147). -/
  | coprocessorAddressForm
  deriving DecidableEq, Repr

/-- The first of a list of checks that fails. -/
def firstFailing : List (Bool × IllFormed) → Option IllFormed
  | [] => none
  | (bad, why) :: rest => if bad then some why else firstFailing rest

/-- R185: no R15 in a register-shifted form. -/
def checkShiftReg (used : List RegNum) : Option IllFormed :=
  firstFailing [(used.contains 15, .shiftByRegisterPc)]

/-- R291 for MUL and MLA. -/
def checkMultiply (rd rm : RegNum) (used : List RegNum) : Option IllFormed :=
  firstFailing [(used.contains 15, .multiplyPc), (rd == rm, .multiplySameRegister)]

/-- R291 for the long multiplies. -/
def checkMultiplyLong (rdHi rdLo rs rm : RegNum) : Option IllFormed :=
  firstFailing [([rdHi, rdLo, rs, rm].contains 15, .multiplyPc),
    (rdHi == rdLo || rdHi == rm || rdLo == rm, .multiplySameRegister)]

/-- R226, for SWP and for SWPB: R227 states no restriction of its own, DESIGN CHOICE (log entry 37): those of SWP hold for
SWPB too. -/
def checkSwap (rn rd rm : RegNum) : Option IllFormed :=
  firstFailing [([rn, rd, rm].contains 15, .swapPc), (rn == rm || rn == rd, .swapSameRegister)]

/-- R201, R202, R205 to R210: `narrow` is a byte or halfword form, `wb` writes the base back. -/
def checkTransfer (narrow wb : Bool) (rn rd : RegNum) (rm : Option RegNum) : Option IllFormed :=
  firstFailing [(narrow && rd == 15, .narrowTransferPc), (rm == some 15, .offsetPc),
    (wb && rn == 15, .writebackPc), (wb && rn == rd, .writebackTransferred)]

/-- Whether register `r` is in an LDM or STM list (R135). -/
def inList (list : BitVec 16) (r : RegNum) : Bool := list.getLsbD r.toNat

/-- Whether `r` is the lowest-numbered register of the list (R224). -/
def lowestInList (list : BitVec 16) (r : RegNum) : Bool :=
  inList list r && (List.range r.toNat).all fun k => !list.getLsbD k

/-- R222, R223. -/
def checkLdm (s w : Bool) (rn : RegNum) (list : BitVec 16) : Option IllFormed :=
  firstFailing [(list == 0, .emptyList), (rn == 15, .blockBasePc), (w && inList list rn, .loadBaseInList),
    (s && w && !list.getLsbD 15, .userBankWriteback)]

/-- R223, R224. -/
def checkStm (s w : Bool) (rn : RegNum) (list : BitVec 16) : Option IllFormed :=
  firstFailing [(list == 0, .emptyList), (rn == 15, .blockBasePc), (s && w, .userBankWriteback),
    (w && inList list rn && !lowestInList list rn, .storeBaseNotLowest)]

/-- R138: P = U = W = 0 is no form of LDC and STC. -/
def checkCoprocessorTransfer (p u w : Bool) : Option IllFormed :=
  firstFailing [(!p && !u && !w, .coprocessorAddressForm)]

/-- Why `i` is ill formed, if it is. -/
def Instr.illFormed : Instr → Option IllFormed
  | .andImm _ _ _ _ _
  | .andShiftImm _ _ _ _ _
  | .eorImm _ _ _ _ _
  | .eorShiftImm _ _ _ _ _
  | .subImm _ _ _ _ _
  | .subShiftImm _ _ _ _ _
  | .rsbImm _ _ _ _ _
  | .rsbShiftImm _ _ _ _ _
  | .addImm _ _ _ _ _
  | .addShiftImm _ _ _ _ _
  | .adcImm _ _ _ _ _
  | .adcShiftImm _ _ _ _ _
  | .sbcImm _ _ _ _ _
  | .sbcShiftImm _ _ _ _ _
  | .rscImm _ _ _ _ _
  | .rscShiftImm _ _ _ _ _
  | .tstImm _ _ _
  | .tstShiftImm _ _ _
  | .teqImm _ _ _
  | .teqShiftImm _ _ _
  | .cmpImm _ _ _
  | .cmpShiftImm _ _ _
  | .cmnImm _ _ _
  | .cmnShiftImm _ _ _
  | .orrImm _ _ _ _ _
  | .orrShiftImm _ _ _ _ _
  | .movImm _ _ _ _
  | .movShiftImm _ _ _ _
  | .bicImm _ _ _ _ _
  | .bicShiftImm _ _ _ _ _
  | .mvnImm _ _ _ _
  | .mvnShiftImm _ _ _ _ => none
  | .andShiftReg _ _ rn rd op
  | .eorShiftReg _ _ rn rd op
  | .subShiftReg _ _ rn rd op
  | .rsbShiftReg _ _ rn rd op
  | .addShiftReg _ _ rn rd op
  | .adcShiftReg _ _ rn rd op
  | .sbcShiftReg _ _ rn rd op
  | .rscShiftReg _ _ rn rd op
  | .orrShiftReg _ _ rn rd op
  | .bicShiftReg _ _ rn rd op => checkShiftReg [rn, rd, op.rm, op.rs]
  | .movShiftReg _ _ rd op
  | .mvnShiftReg _ _ rd op => checkShiftReg [rd, op.rm, op.rs]
  | .tstShiftReg _ rn op
  | .teqShiftReg _ rn op
  | .cmpShiftReg _ rn op
  | .cmnShiftReg _ rn op => checkShiftReg [rn, op.rm, op.rs]
  | .mul _ _ rd rs rm => checkMultiply rd rm [rd, rs, rm]
  | .mla _ _ rd rn rs rm => checkMultiply rd rm [rd, rn, rs, rm]
  | .umull _ _ rdHi rdLo rs rm
  | .umlal _ _ rdHi rdLo rs rm
  | .smull _ _ rdHi rdLo rs rm
  | .smlal _ _ rdHi rdLo rs rm => checkMultiplyLong rdHi rdLo rs rm
  | .swp _ rn rd rm
  | .swpb _ rn rd rm => checkSwap rn rd rm
  | .ldrhImmPre _ _ w rn rd _
  | .strhImmPre _ _ w rn rd _
  | .ldrsbImmPre _ _ w rn rd _
  | .ldrshImmPre _ _ w rn rd _
  | .ldrbImmPre _ _ w rn rd _
  | .strbImmPre _ _ w rn rd _ => checkTransfer true w rn rd none
  | .ldrhImmPost _ _ rn rd _
  | .strhImmPost _ _ rn rd _
  | .ldrsbImmPost _ _ rn rd _
  | .ldrshImmPost _ _ rn rd _
  | .ldrbImmPost _ _ rn rd _
  | .strbImmPost _ _ rn rd _ => checkTransfer true true rn rd none
  | .ldrhRegPre _ _ w rn rd rm
  | .strhRegPre _ _ w rn rd rm
  | .ldrsbRegPre _ _ w rn rd rm
  | .ldrshRegPre _ _ w rn rd rm => checkTransfer true w rn rd (some rm)
  | .ldrhRegPost _ _ rn rd rm
  | .strhRegPost _ _ rn rd rm
  | .ldrsbRegPost _ _ rn rd rm
  | .ldrshRegPost _ _ rn rd rm => checkTransfer true true rn rd (some rm)
  | .ldrImmPre _ _ w rn rd _
  | .strImmPre _ _ w rn rd _ => checkTransfer false w rn rd none
  | .ldrImmPost _ _ rn rd _
  | .strImmPost _ _ rn rd _ => checkTransfer false true rn rd none
  | .ldrRegPre _ _ w rn rd off
  | .strRegPre _ _ w rn rd off => checkTransfer false w rn rd (some off.rm)
  | .ldrRegPost _ _ rn rd off
  | .strRegPost _ _ rn rd off => checkTransfer false true rn rd (some off.rm)
  | .ldrbRegPre _ _ w rn rd off
  | .strbRegPre _ _ w rn rd off => checkTransfer true w rn rd (some off.rm)
  | .ldrbRegPost _ _ rn rd off
  | .strbRegPost _ _ rn rd off => checkTransfer true true rn rd (some off.rm)
  | .ldm _ _ _ s w rn list => checkLdm s w rn list
  | .stm _ _ _ s w rn list => checkStm s w rn list
  | .b _ _
  | .bl _ _
  | .bx _ _ => none
  | .blxReg _ rm => firstFailing [(rm == 15, .blxPc)]
  | .blxImm _ _ => none
  | .mrs _ _ rd => firstFailing [(rd == 15, .mrsPc)]
  | .msrReg _ _ _ rm => firstFailing [(rm == 15, .msrPc)]
  | .msrImm _ _ _ _
  | .cdp _ _ _ _ _ _ _ => none
  | .ldc _ p u _ w _ _ _ _
  | .stc _ p u _ w _ _ _ _ => checkCoprocessorTransfer p u w
  | .mcr _ _ _ _ _ _ _
  | .mrc _ _ _ _ _ _ _
  | .swi _ _
  | .bkpt _
  | .undefMem _ _ _
  | .undefMsr _ _ _
  | .ldrPseudo _ _ _ _ _
  | .adr _ _ _ _
  | .adrl _ _ _ _ _
  | .nop => none

/-- No check fails. -/
def Instr.wellFormed (i : Instr) : Bool := i.illFormed.isNone

/-- The assembler pseudo-instructions, which have no bit pattern of their own (R151, R380). -/
def Instr.isPseudo : Instr → Bool
  | .ldrPseudo _ _ _ _ _
  | .adr _ _ _ _
  | .adrl _ _ _ _ _
  | .nop => true
  | .andImm _ _ _ _ _
  | .andShiftImm _ _ _ _ _
  | .andShiftReg _ _ _ _ _
  | .eorImm _ _ _ _ _
  | .eorShiftImm _ _ _ _ _
  | .eorShiftReg _ _ _ _ _
  | .subImm _ _ _ _ _
  | .subShiftImm _ _ _ _ _
  | .subShiftReg _ _ _ _ _
  | .rsbImm _ _ _ _ _
  | .rsbShiftImm _ _ _ _ _
  | .rsbShiftReg _ _ _ _ _
  | .addImm _ _ _ _ _
  | .addShiftImm _ _ _ _ _
  | .addShiftReg _ _ _ _ _
  | .adcImm _ _ _ _ _
  | .adcShiftImm _ _ _ _ _
  | .adcShiftReg _ _ _ _ _
  | .sbcImm _ _ _ _ _
  | .sbcShiftImm _ _ _ _ _
  | .sbcShiftReg _ _ _ _ _
  | .rscImm _ _ _ _ _
  | .rscShiftImm _ _ _ _ _
  | .rscShiftReg _ _ _ _ _
  | .tstImm _ _ _
  | .tstShiftImm _ _ _
  | .tstShiftReg _ _ _
  | .teqImm _ _ _
  | .teqShiftImm _ _ _
  | .teqShiftReg _ _ _
  | .cmpImm _ _ _
  | .cmpShiftImm _ _ _
  | .cmpShiftReg _ _ _
  | .cmnImm _ _ _
  | .cmnShiftImm _ _ _
  | .cmnShiftReg _ _ _
  | .orrImm _ _ _ _ _
  | .orrShiftImm _ _ _ _ _
  | .orrShiftReg _ _ _ _ _
  | .movImm _ _ _ _
  | .movShiftImm _ _ _ _
  | .movShiftReg _ _ _ _
  | .bicImm _ _ _ _ _
  | .bicShiftImm _ _ _ _ _
  | .bicShiftReg _ _ _ _ _
  | .mvnImm _ _ _ _
  | .mvnShiftImm _ _ _ _
  | .mvnShiftReg _ _ _ _
  | .mul _ _ _ _ _
  | .mla _ _ _ _ _ _
  | .umull _ _ _ _ _ _
  | .umlal _ _ _ _ _ _
  | .smull _ _ _ _ _ _
  | .smlal _ _ _ _ _ _
  | .swp _ _ _ _
  | .swpb _ _ _ _
  | .ldrhImmPre _ _ _ _ _ _
  | .ldrhImmPost _ _ _ _ _
  | .ldrhRegPre _ _ _ _ _ _
  | .ldrhRegPost _ _ _ _ _
  | .strhImmPre _ _ _ _ _ _
  | .strhImmPost _ _ _ _ _
  | .strhRegPre _ _ _ _ _ _
  | .strhRegPost _ _ _ _ _
  | .ldrsbImmPre _ _ _ _ _ _
  | .ldrsbImmPost _ _ _ _ _
  | .ldrsbRegPre _ _ _ _ _ _
  | .ldrsbRegPost _ _ _ _ _
  | .ldrshImmPre _ _ _ _ _ _
  | .ldrshImmPost _ _ _ _ _
  | .ldrshRegPre _ _ _ _ _ _
  | .ldrshRegPost _ _ _ _ _
  | .ldrImmPre _ _ _ _ _ _
  | .ldrImmPost _ _ _ _ _
  | .ldrRegPre _ _ _ _ _ _
  | .ldrRegPost _ _ _ _ _
  | .strImmPre _ _ _ _ _ _
  | .strImmPost _ _ _ _ _
  | .strRegPre _ _ _ _ _ _
  | .strRegPost _ _ _ _ _
  | .ldrbImmPre _ _ _ _ _ _
  | .ldrbImmPost _ _ _ _ _
  | .ldrbRegPre _ _ _ _ _ _
  | .ldrbRegPost _ _ _ _ _
  | .strbImmPre _ _ _ _ _ _
  | .strbImmPost _ _ _ _ _
  | .strbRegPre _ _ _ _ _ _
  | .strbRegPost _ _ _ _ _
  | .ldm _ _ _ _ _ _ _
  | .stm _ _ _ _ _ _ _
  | .b _ _
  | .bl _ _
  | .bx _ _
  | .blxReg _ _
  | .blxImm _ _
  | .mrs _ _ _
  | .msrReg _ _ _ _
  | .msrImm _ _ _ _
  | .cdp _ _ _ _ _ _ _
  | .ldc _ _ _ _ _ _ _ _ _
  | .stc _ _ _ _ _ _ _ _ _
  | .mcr _ _ _ _ _ _ _
  | .mrc _ _ _ _ _ _ _
  | .swi _ _
  | .bkpt _
  | .undefMem _ _ _
  | .undefMsr _ _ _ => false

/-- The condition of a conditional instruction; none for the unconditional BLX (immediate), BKPT and NOP (R170). -/
def Instr.cond? : Instr → Option Cond
  | .blxImm _ _
  | .bkpt _
  | .nop => none
  | .andImm c _ _ _ _
  | .andShiftImm c _ _ _ _
  | .andShiftReg c _ _ _ _
  | .eorImm c _ _ _ _
  | .eorShiftImm c _ _ _ _
  | .eorShiftReg c _ _ _ _
  | .subImm c _ _ _ _
  | .subShiftImm c _ _ _ _
  | .subShiftReg c _ _ _ _
  | .rsbImm c _ _ _ _
  | .rsbShiftImm c _ _ _ _
  | .rsbShiftReg c _ _ _ _
  | .addImm c _ _ _ _
  | .addShiftImm c _ _ _ _
  | .addShiftReg c _ _ _ _
  | .adcImm c _ _ _ _
  | .adcShiftImm c _ _ _ _
  | .adcShiftReg c _ _ _ _
  | .sbcImm c _ _ _ _
  | .sbcShiftImm c _ _ _ _
  | .sbcShiftReg c _ _ _ _
  | .rscImm c _ _ _ _
  | .rscShiftImm c _ _ _ _
  | .rscShiftReg c _ _ _ _
  | .tstImm c _ _
  | .tstShiftImm c _ _
  | .tstShiftReg c _ _
  | .teqImm c _ _
  | .teqShiftImm c _ _
  | .teqShiftReg c _ _
  | .cmpImm c _ _
  | .cmpShiftImm c _ _
  | .cmpShiftReg c _ _
  | .cmnImm c _ _
  | .cmnShiftImm c _ _
  | .cmnShiftReg c _ _
  | .orrImm c _ _ _ _
  | .orrShiftImm c _ _ _ _
  | .orrShiftReg c _ _ _ _
  | .movImm c _ _ _
  | .movShiftImm c _ _ _
  | .movShiftReg c _ _ _
  | .bicImm c _ _ _ _
  | .bicShiftImm c _ _ _ _
  | .bicShiftReg c _ _ _ _
  | .mvnImm c _ _ _
  | .mvnShiftImm c _ _ _
  | .mvnShiftReg c _ _ _
  | .mul c _ _ _ _
  | .mla c _ _ _ _ _
  | .umull c _ _ _ _ _
  | .umlal c _ _ _ _ _
  | .smull c _ _ _ _ _
  | .smlal c _ _ _ _ _
  | .swp c _ _ _
  | .swpb c _ _ _
  | .ldrhImmPre c _ _ _ _ _
  | .ldrhImmPost c _ _ _ _
  | .ldrhRegPre c _ _ _ _ _
  | .ldrhRegPost c _ _ _ _
  | .strhImmPre c _ _ _ _ _
  | .strhImmPost c _ _ _ _
  | .strhRegPre c _ _ _ _ _
  | .strhRegPost c _ _ _ _
  | .ldrsbImmPre c _ _ _ _ _
  | .ldrsbImmPost c _ _ _ _
  | .ldrsbRegPre c _ _ _ _ _
  | .ldrsbRegPost c _ _ _ _
  | .ldrshImmPre c _ _ _ _ _
  | .ldrshImmPost c _ _ _ _
  | .ldrshRegPre c _ _ _ _ _
  | .ldrshRegPost c _ _ _ _
  | .ldrImmPre c _ _ _ _ _
  | .ldrImmPost c _ _ _ _
  | .ldrRegPre c _ _ _ _ _
  | .ldrRegPost c _ _ _ _
  | .strImmPre c _ _ _ _ _
  | .strImmPost c _ _ _ _
  | .strRegPre c _ _ _ _ _
  | .strRegPost c _ _ _ _
  | .ldrbImmPre c _ _ _ _ _
  | .ldrbImmPost c _ _ _ _
  | .ldrbRegPre c _ _ _ _ _
  | .ldrbRegPost c _ _ _ _
  | .strbImmPre c _ _ _ _ _
  | .strbImmPost c _ _ _ _
  | .strbRegPre c _ _ _ _ _
  | .strbRegPost c _ _ _ _
  | .ldm c _ _ _ _ _ _
  | .stm c _ _ _ _ _ _
  | .b c _
  | .bl c _
  | .bx c _
  | .blxReg c _
  | .mrs c _ _
  | .msrReg c _ _ _
  | .msrImm c _ _ _
  | .cdp c _ _ _ _ _ _
  | .ldc c _ _ _ _ _ _ _ _
  | .stc c _ _ _ _ _ _ _ _
  | .mcr c _ _ _ _ _ _
  | .mrc c _ _ _ _ _ _
  | .swi c _
  | .undefMem c _ _
  | .undefMsr c _ _
  | .ldrPseudo c _ _ _ _
  | .adr c _ _ _
  | .adrl c _ _ _ _ => some c

end Sys2Proof
end

