-- ==== Sys2Proof/Decode.lean ====
section
/-! DEFINITION. Decoding and encoding (30_encoding.md R120 to R149). `decodeWord` follows the decision tree of R123;
`encodeWord` is written from the encoding tables R124 to R144. -/
namespace Sys2Proof

/-- Parameter `ARCH_V5T` (R8, D1, OPEN): BLX and BKPT exist. DESIGN CHOICE `true`, the source's instruction list
(log entry 6). -/
def archV5T : Bool := true

/-- Why a word is no instruction of the spec. -/
inductive DecodeError where
  /-- Fewer than four bytes. -/
  | truncated
  /-- Condition 1111, other than BLX immediate (R148). -/
  | conditionNever
  /-- An encoding the spec does not list (R147). -/
  | notInThisSpec
  /-- A should-be-zero or should-be-one field has another value (R149); `c` is the word's condition. -/
  | shouldBe (c : Cond)
  deriving DecidableEq, Repr

/-- The condition with the given field value (R171). -/
def Cond.ofBits : BitVec 4 → Option Cond
  | 0 => some .eq | 1 => some .ne | 2 => some .cs | 3 => some .cc
  | 4 => some .mi | 5 => some .pl | 6 => some .vs | 7 => some .vc
  | 8 => some .hi | 9 => some .ls | 10 => some .ge | 11 => some .lt
  | 12 => some .gt | 13 => some .le | 14 => some .al | _ => none

/-- The field value of a condition (R171). -/
def Cond.bits : Cond → BitVec 4
  | .eq => 0 | .ne => 1 | .cs => 2 | .cc => 3 | .mi => 4 | .pl => 5 | .vs => 6 | .vc => 7
  | .hi => 8 | .ls => 9 | .ge => 10 | .lt => 11 | .gt => 12 | .le => 13 | .al => 14

/-- The shift with the given field value (R127). -/
def ShiftKind.ofBits : BitVec 2 → ShiftKind
  | 0 => .lsl | 1 => .lsr | 2 => .asr | _ => .ror

/-- The field value of a shift (R127). -/
def ShiftKind.bits : ShiftKind → BitVec 2
  | .lsl => 0 | .lsr => 1 | .asr => 2 | .ror => 3

/-- The `n`-bit field of `w` whose lowest bit is bit `lo` (R9). -/
def field (w : Word) (lo n : Nat) : BitVec n := w.extractLsb' lo n

/-- The immediate operand 2 of a word (R126). -/
def rotImmOf (w : Word) : RotImm := { rot := field w 8 4, imm8 := field w 0 8 }

/-- The register operand 2 with an immediate shift (R127). -/
def shiftImmOf (w : Word) : ShiftImm :=
  { rm := field w 0 4, kind := ShiftKind.ofBits (field w 5 2), amount := field w 7 5 }

/-- The register operand 2 with a register shift (R128). -/
def shiftRegOf (w : Word) : ShiftReg :=
  { rm := field w 0 4, kind := ShiftKind.ofBits (field w 5 2), rs := field w 8 4 }

/-- `i`, if the should-be field holds what it should (R149). -/
def shouldBe (c : Cond) (holds : Bool) (i : Instr) : Except DecodeError Instr :=
  if holds then .ok i else .error (.shouldBe c)

/-- Data processing, operand 2 immediate: the opcode selects the instruction (R124, R125). -/
def decodeDpImm (c : Cond) (w : Word) (op : RotImm) : Except DecodeError Instr :=
  let s := w.getLsbD 20
  let rn := field w 16 4
  let rd := field w 12 4
  match field w 21 4 with
  | 0 => .ok (.andImm c s rn rd op)
  | 1 => .ok (.eorImm c s rn rd op)
  | 2 => .ok (.subImm c s rn rd op)
  | 3 => .ok (.rsbImm c s rn rd op)
  | 4 => .ok (.addImm c s rn rd op)
  | 5 => .ok (.adcImm c s rn rd op)
  | 6 => .ok (.sbcImm c s rn rd op)
  | 7 => .ok (.rscImm c s rn rd op)
  | 8 => shouldBe c (rd == 0) (.tstImm c rn op)
  | 9 => shouldBe c (rd == 0) (.teqImm c rn op)
  | 10 => shouldBe c (rd == 0) (.cmpImm c rn op)
  | 11 => shouldBe c (rd == 0) (.cmnImm c rn op)
  | 12 => .ok (.orrImm c s rn rd op)
  | 13 => shouldBe c (rn == 0) (.movImm c s rd op)
  | 14 => .ok (.bicImm c s rn rd op)
  | _ => shouldBe c (rn == 0) (.mvnImm c s rd op)

/-- Data processing, operand 2 register, immediate shift: the opcode selects the instruction (R124, R125). -/
def decodeDpShiftImm (c : Cond) (w : Word) (op : ShiftImm) : Except DecodeError Instr :=
  let s := w.getLsbD 20
  let rn := field w 16 4
  let rd := field w 12 4
  match field w 21 4 with
  | 0 => .ok (.andShiftImm c s rn rd op)
  | 1 => .ok (.eorShiftImm c s rn rd op)
  | 2 => .ok (.subShiftImm c s rn rd op)
  | 3 => .ok (.rsbShiftImm c s rn rd op)
  | 4 => .ok (.addShiftImm c s rn rd op)
  | 5 => .ok (.adcShiftImm c s rn rd op)
  | 6 => .ok (.sbcShiftImm c s rn rd op)
  | 7 => .ok (.rscShiftImm c s rn rd op)
  | 8 => shouldBe c (rd == 0) (.tstShiftImm c rn op)
  | 9 => shouldBe c (rd == 0) (.teqShiftImm c rn op)
  | 10 => shouldBe c (rd == 0) (.cmpShiftImm c rn op)
  | 11 => shouldBe c (rd == 0) (.cmnShiftImm c rn op)
  | 12 => .ok (.orrShiftImm c s rn rd op)
  | 13 => shouldBe c (rn == 0) (.movShiftImm c s rd op)
  | 14 => .ok (.bicShiftImm c s rn rd op)
  | _ => shouldBe c (rn == 0) (.mvnShiftImm c s rd op)

/-- Data processing, operand 2 register, register shift: the opcode selects the instruction (R124, R125). -/
def decodeDpShiftReg (c : Cond) (w : Word) (op : ShiftReg) : Except DecodeError Instr :=
  let s := w.getLsbD 20
  let rn := field w 16 4
  let rd := field w 12 4
  match field w 21 4 with
  | 0 => .ok (.andShiftReg c s rn rd op)
  | 1 => .ok (.eorShiftReg c s rn rd op)
  | 2 => .ok (.subShiftReg c s rn rd op)
  | 3 => .ok (.rsbShiftReg c s rn rd op)
  | 4 => .ok (.addShiftReg c s rn rd op)
  | 5 => .ok (.adcShiftReg c s rn rd op)
  | 6 => .ok (.sbcShiftReg c s rn rd op)
  | 7 => .ok (.rscShiftReg c s rn rd op)
  | 8 => shouldBe c (rd == 0) (.tstShiftReg c rn op)
  | 9 => shouldBe c (rd == 0) (.teqShiftReg c rn op)
  | 10 => shouldBe c (rd == 0) (.cmpShiftReg c rn op)
  | 11 => shouldBe c (rd == 0) (.cmnShiftReg c rn op)
  | 12 => .ok (.orrShiftReg c s rn rd op)
  | 13 => shouldBe c (rn == 0) (.movShiftReg c s rd op)
  | 14 => .ok (.bicShiftReg c s rn rd op)
  | _ => shouldBe c (rn == 0) (.mvnShiftReg c s rd op)

/-- R123 steps 1 to 4: bits 27:25 = 000 and bits 7:4 = 1001. -/
def decodeMultiplySwap (c : Cond) (w : Word) : Except DecodeError Instr :=
  let s := w.getLsbD 20
  let r16 := field w 16 4
  let r12 := field w 12 4
  let r8 := field w 8 4
  let r0 := field w 0 4
  match field w 21 4 with
  | 0b0000 => shouldBe c (r12 == 0) (.mul c s r16 r8 r0)
  | 0b0001 => .ok (.mla c s r16 r12 r8 r0)
  | 0b0100 => .ok (.umull c s r16 r12 r8 r0)
  | 0b0101 => .ok (.umlal c s r16 r12 r8 r0)
  | 0b0110 => .ok (.smull c s r16 r12 r8 r0)
  | 0b0111 => .ok (.smlal c s r16 r12 r8 r0)
  | 0b1000 => if !s && r8 == 0 then .ok (.swp c r16 r12 r0) else .error .notInThisSpec
  | 0b1010 => if !s && r8 == 0 then .ok (.swpb c r16 r12 r0) else .error .notInThisSpec
  | _ => .error .notInThisSpec

/-- The four address forms of a halfword or signed transfer (R133): which constructor the P, I, W bits select. -/
def decodeHalfForms (c : Cond) (w : Word) (immPre : Bool → Bool → RegNum → RegNum → BitVec 8 → Instr)
    (immPost : Bool → RegNum → RegNum → BitVec 8 → Instr) (regPre : Bool → Bool → RegNum → RegNum → RegNum → Instr)
    (regPost : Bool → RegNum → RegNum → RegNum → Instr) : Except DecodeError Instr :=
  let u := w.getLsbD 23
  let wb := w.getLsbD 21
  let rn := field w 16 4
  let rd := field w 12 4
  let imm : BitVec 8 := field w 8 4 ++ field w 0 4
  match w.getLsbD 24, w.getLsbD 22 with
  | true, true => .ok (immPre u wb rn rd imm)
  | false, true => if wb then .error .notInThisSpec else .ok (immPost u rn rd imm)
  | true, false => shouldBe c (field w 8 4 == 0) (regPre u wb rn rd (field w 0 4))
  | false, false =>
    if wb then .error .notInThisSpec else shouldBe c (field w 8 4 == 0) (regPost u rn rd (field w 0 4))

/-- R123 steps 5 to 7: bits 27:25 = 000, bits 7 and 4 set, bits 6:5 not 00. -/
def decodeHalf (c : Cond) (w : Word) : Except DecodeError Instr :=
  match w.getLsbD 20, field w 5 2 with
  | true, 1 => decodeHalfForms c w (.ldrhImmPre c) (.ldrhImmPost c) (.ldrhRegPre c) (.ldrhRegPost c)
  | true, 2 => decodeHalfForms c w (.ldrsbImmPre c) (.ldrsbImmPost c) (.ldrsbRegPre c) (.ldrsbRegPost c)
  | true, _ => decodeHalfForms c w (.ldrshImmPre c) (.ldrshImmPost c) (.ldrshRegPre c) (.ldrshRegPost c)
  | false, 1 => decodeHalfForms c w (.strhImmPre c) (.strhImmPost c) (.strhRegPre c) (.strhRegPost c)
  | false, _ => .error .notInThisSpec

/-- R123 steps 8 to 13: bits 27:23 = 00010, bit 20 clear, not a multiply or transfer word. -/
def decodeStatusBranch (c : Cond) (w : Word) : Except DecodeError Instr :=
  match field w 4 4, field w 21 2 with
  | 0b0000, 0b00 => shouldBe c (field w 16 4 == 15 && field w 0 12 == 0) (.mrs c false (field w 12 4))
  | 0b0000, 0b10 => shouldBe c (field w 16 4 == 15 && field w 0 12 == 0) (.mrs c true (field w 12 4))
  | 0b0000, 0b01 =>
    shouldBe c (field w 12 4 == 15 && field w 8 4 == 0) (.msrReg c false (field w 16 4) (field w 0 4))
  | 0b0000, _ =>
    shouldBe c (field w 12 4 == 15 && field w 8 4 == 0) (.msrReg c true (field w 16 4) (field w 0 4))
  | 0b0001, 0b01 => shouldBe c (field w 8 12 == 0xFFF) (.bx c (field w 0 4))
  | 0b0011, 0b01 =>
    if archV5T then shouldBe c (field w 8 12 == 0xFFF) (.blxReg c (field w 0 4)) else .error .notInThisSpec
  | 0b0111, 0b01 =>
    if archV5T && c == .al then .ok (.bkpt (field w 8 12 ++ field w 0 4)) else .error .notInThisSpec
  | _, _ => .error .notInThisSpec

/-- R123 steps 1 to 14: bits 27:25 = 000. -/
def decode000 (c : Cond) (w : Word) : Except DecodeError Instr :=
  if w.getLsbD 7 && w.getLsbD 4 then
    if field w 5 2 == 0 then decodeMultiplySwap c w else decodeHalf c w
  else if field w 23 2 == 2 && !w.getLsbD 20 then decodeStatusBranch c w
  else if w.getLsbD 4 then decodeDpShiftReg c w (shiftRegOf w)
  else decodeDpShiftImm c w (shiftImmOf w)

/-- R123 steps 15 to 17: bits 27:25 = 001. -/
def decode001 (c : Cond) (w : Word) : Except DecodeError Instr :=
  if field w 23 2 == 2 && !w.getLsbD 20 then
    if w.getLsbD 21 then
      shouldBe c (field w 12 4 == 15) (.msrImm c (w.getLsbD 22) (field w 16 4) (rotImmOf w))
    else .ok (.undefMsr c (w.getLsbD 22) (field w 0 20))
  else decodeDpImm c w (rotImmOf w)

/-- R123 step 18: bits 27:25 = 010, a word or byte transfer with an immediate offset (R134). -/
def decodeTransferImm (c : Cond) (w : Word) : Except DecodeError Instr :=
  let u := w.getLsbD 23
  let wb := w.getLsbD 21
  let rn := field w 16 4
  let rd := field w 12 4
  let imm := field w 0 12
  match w.getLsbD 24, w.getLsbD 22, w.getLsbD 20 with
  | true, false, true => .ok (.ldrImmPre c u wb rn rd imm)
  | true, false, false => .ok (.strImmPre c u wb rn rd imm)
  | true, true, true => .ok (.ldrbImmPre c u wb rn rd imm)
  | true, true, false => .ok (.strbImmPre c u wb rn rd imm)
  | false, b, l =>
    if wb then .error .notInThisSpec else
      match b, l with
      | false, true => .ok (.ldrImmPost c u rn rd imm)
      | false, false => .ok (.strImmPost c u rn rd imm)
      | true, true => .ok (.ldrbImmPost c u rn rd imm)
      | true, false => .ok (.strbImmPost c u rn rd imm)

/-- R123 step 19: bits 27:25 = 011 and bit 4 clear, a word or byte transfer with a register offset (R134). -/
def decodeTransferReg (c : Cond) (w : Word) : Except DecodeError Instr :=
  let u := w.getLsbD 23
  let wb := w.getLsbD 21
  let rn := field w 16 4
  let rd := field w 12 4
  let off := shiftImmOf w
  match w.getLsbD 24, w.getLsbD 22, w.getLsbD 20 with
  | true, false, true => .ok (.ldrRegPre c u wb rn rd off)
  | true, false, false => .ok (.strRegPre c u wb rn rd off)
  | true, true, true => .ok (.ldrbRegPre c u wb rn rd off)
  | true, true, false => .ok (.strbRegPre c u wb rn rd off)
  | false, b, l =>
    if wb then .error .notInThisSpec else
      match b, l with
      | false, true => .ok (.ldrRegPost c u rn rd off)
      | false, false => .ok (.strRegPost c u rn rd off)
      | true, true => .ok (.ldrbRegPost c u rn rd off)
      | true, false => .ok (.strbRegPost c u rn rd off)

/-- R123 step 21 (R135). -/
def decodeBlock (c : Cond) (w : Word) : Except DecodeError Instr :=
  let p := w.getLsbD 24
  let u := w.getLsbD 23
  let s := w.getLsbD 22
  let wb := w.getLsbD 21
  if w.getLsbD 20 then .ok (.ldm c p u s wb (field w 16 4) (field w 0 16))
  else .ok (.stm c p u s wb (field w 16 4) (field w 0 16))

/-- R123 step 23 (R138). -/
def decodeCoprocessorTransfer (c : Cond) (w : Word) : Except DecodeError Instr :=
  let p := w.getLsbD 24
  let u := w.getLsbD 23
  let n := w.getLsbD 22
  let wb := w.getLsbD 21
  if !p && !u && !wb then .error .notInThisSpec
  else if w.getLsbD 20 then .ok (.ldc c p u n wb (field w 16 4) (field w 12 4) (field w 8 4) (field w 0 8))
  else .ok (.stc c p u n wb (field w 16 4) (field w 12 4) (field w 8 4) (field w 0 8))

/-- R123 steps 24 to 26: bits 27:25 = 111. -/
def decodeCoprocessorSwi (c : Cond) (w : Word) : Except DecodeError Instr :=
  let r16 := field w 16 4
  let r12 := field w 12 4
  let cp := field w 8 4
  let op2 := field w 5 3
  let r0 := field w 0 4
  if w.getLsbD 24 then .ok (.swi c (field w 0 24))
  else if !w.getLsbD 4 then .ok (.cdp c (field w 20 4) r16 r12 cp op2 r0)
  else if w.getLsbD 20 then .ok (.mrc c (field w 21 3) r16 r12 cp op2 r0)
  else .ok (.mcr c (field w 21 3) r16 r12 cp op2 r0)

/-- R123 steps 1 to 26: a word whose condition field is not 1111. -/
def decodeConditional (c : Cond) (w : Word) : Except DecodeError Instr :=
  match field w 25 3 with
  | 0b000 => decode000 c w
  | 0b001 => decode001 c w
  | 0b010 => decodeTransferImm c w
  | 0b011 => if w.getLsbD 4 then .ok (.undefMem c (field w 5 20) (field w 0 4)) else decodeTransferReg c w
  | 0b100 => decodeBlock c w
  | 0b101 => if w.getLsbD 24 then .ok (.bl c (field w 0 24)) else .ok (.b c (field w 0 24))
  | 0b110 => decodeCoprocessorTransfer c w
  | _ => decodeCoprocessorSwi c w

/-- The instruction a word encodes in ARM state: the total decode of R123. -/
def decodeWord (w : Word) : Except DecodeError Instr :=
  match Cond.ofBits (field w 28 4) with
  | some c => decodeConditional c w
  | none =>
    if archV5T && field w 25 3 == 0b101 then .ok (.blxImm (w.getLsbD 24) (field w 0 24))
    else .error .conditionNever

/-- Decoding from bytes: an ARM instruction is the little-endian word of its four bytes (R71, R120). Answers the
instruction and the bytes after it. -/
def decodeBytes : List Byte → Except DecodeError (Instr × List Byte)
  | b0 :: b1 :: b2 :: b3 :: rest =>
    match decodeWord (b3 ++ b2 ++ b1 ++ b0 : BitVec 32) with
    | .ok i => .ok (i, rest)
    | .error e => .error e
  | _ => .error .truncated

/-- The four bytes of a word as memory holds them, the first at the lowest address (R70). -/
def wordBytes (w : Word) : List Byte := [field w 0 8, field w 8 8, field w 16 8, field w 24 8]

/-- The word whose bits are those of `w` below `nbits`, zero above: an instruction as spec/opcode_table.json numbers it. -/
def tableWord (nbits w : Nat) : Word := BitVec.ofNat 32 (w % 2 ^ nbits)

/-- What the decoder reads from the instruction whose bits are `w`; none where it refuses. -/
def decodeTableWord (nbits w : Nat) : Option Instr :=
  match decodeBytes (wordBytes (tableWord nbits w)) with
  | .ok (i, _) => some i
  | .error _ => none

/-- The operand-2 immediate with value `v` and the least rotation, if there is one (R126). -/
def rotImmFor (v : Word) : Option RotImm :=
  (List.range 16).findSome? fun r =>
    if (v.rotateLeft (2 * r)).toNat < 256 then
      some { rot := BitVec.ofNat 4 r, imm8 := (v.rotateLeft (2 * r)).extractLsb' 0 8 }
    else none

/-- The instructions a pseudo-instruction stands for (R381 to R384); any other instruction stands for itself. -/
def Instr.expand (i : Instr) : List Instr :=
  match i with
  | .ldrPseudo c rd value u off =>
    match rotImmFor value with
    | some op => [.movImm c false rd op]
    | none =>
      match rotImmFor (~~~value) with
      | some op => [.mvnImm c false rd op]
      | none => [.ldrImmPre c u false 15 rd off]
  | .adr c rd u op => if u then [.addImm c false 15 rd op] else [.subImm c false 15 rd op]
  | .adrl c rd u op1 op2 =>
    if u then [.addImm c false 15 rd op1, .addImm c false rd rd op2]
    else [.subImm c false 15 rd op1, .subImm c false rd rd op2]
  | .nop => [.movShiftImm .al false 0 { rm := 0, kind := .lsl, amount := 0 }]
  | _ => [i]

/-- One bit. -/
abbrev bit (b : Bool) : BitVec 1 := BitVec.ofBool b

/-- Data processing with an immediate operand 2 (R124, R126). -/
def encDpImm (c : Cond) (opcode : BitVec 4) (s : Bool) (rn rd : RegNum) (op : RotImm) : Word :=
  c.bits ++ 0b001#3 ++ opcode ++ bit s ++ rn ++ rd ++ op.rot ++ op.imm8

/-- Data processing with an immediate shift (R124, R127). -/
def encDpShiftImm (c : Cond) (opcode : BitVec 4) (s : Bool) (rn rd : RegNum) (op : ShiftImm) : Word :=
  c.bits ++ 0b000#3 ++ opcode ++ bit s ++ rn ++ rd ++ op.amount ++ op.kind.bits ++ 0#1 ++ op.rm

/-- Data processing with a register shift (R124, R128). -/
def encDpShiftReg (c : Cond) (opcode : BitVec 4) (s : Bool) (rn rd : RegNum) (op : ShiftReg) : Word :=
  c.bits ++ 0b000#3 ++ opcode ++ bit s ++ rn ++ rd ++ op.rs ++ 0#1 ++ op.kind.bits ++ 1#1 ++ op.rm

/-- MUL, MLA and the long multiplies (R129, R130): `sel` is bits 24:21. -/
def encMultiply (c : Cond) (sel : BitVec 4) (s : Bool) (r16 r12 rs rm : RegNum) : Word :=
  c.bits ++ 0b000#3 ++ sel ++ bit s ++ r16 ++ r12 ++ rs ++ 0b1001#4 ++ rm

/-- SWP and SWPB (R131). -/
def encSwap (c : Cond) (b : Bool) (rn rd rm : RegNum) : Word :=
  c.bits ++ 0b00010#5 ++ bit b ++ 0b00#2 ++ rn ++ rd ++ 0b00001001#8 ++ rm

/-- Halfword and signed transfers (R133): `imm` is the I bit, `hi` bits 11:8, `lo` bits 3:0. -/
def encHalf (c : Cond) (p u imm w l : Bool) (sh : BitVec 2) (rn rd : RegNum) (hi lo : BitVec 4) : Word :=
  c.bits ++ 0b000#3 ++ bit p ++ bit u ++ bit imm ++ bit w ++ bit l ++ rn ++ rd ++ hi ++ 1#1 ++ sh ++ 1#1 ++ lo

/-- Word and byte transfers with an immediate offset (R134). -/
def encTransferImm (c : Cond) (p u b w l : Bool) (rn rd : RegNum) (imm : BitVec 12) : Word :=
  c.bits ++ 0b010#3 ++ bit p ++ bit u ++ bit b ++ bit w ++ bit l ++ rn ++ rd ++ imm

/-- Word and byte transfers with a register offset (R134). -/
def encTransferReg (c : Cond) (p u b w l : Bool) (rn rd : RegNum) (off : ShiftImm) : Word :=
  c.bits ++ 0b011#3 ++ bit p ++ bit u ++ bit b ++ bit w ++ bit l ++ rn ++ rd ++ off.amount ++ off.kind.bits ++ 0#1
    ++ off.rm

/-- LDM and STM (R135). -/
def encBlock (c : Cond) (p u s w l : Bool) (rn : RegNum) (list : BitVec 16) : Word :=
  c.bits ++ 0b100#3 ++ bit p ++ bit u ++ bit s ++ bit w ++ bit l ++ rn ++ list

/-- LDC and STC (R138). -/
def encCoprocessorTransfer (c : Cond) (p u n w l : Bool) (rn : RegNum) (crd cp : BitVec 4) (off : BitVec 8) : Word :=
  c.bits ++ 0b110#3 ++ bit p ++ bit u ++ bit n ++ bit w ++ bit l ++ rn ++ crd ++ cp ++ off

/-- The word of an instruction, from the encoding tables (R124 to R146); none for a pseudo-instruction. -/
def encodeWord : Instr → Option Word
  | .andImm c s rn rd op => some (encDpImm c 0 s rn rd op)
  | .andShiftImm c s rn rd op => some (encDpShiftImm c 0 s rn rd op)
  | .andShiftReg c s rn rd op => some (encDpShiftReg c 0 s rn rd op)
  | .eorImm c s rn rd op => some (encDpImm c 1 s rn rd op)
  | .eorShiftImm c s rn rd op => some (encDpShiftImm c 1 s rn rd op)
  | .eorShiftReg c s rn rd op => some (encDpShiftReg c 1 s rn rd op)
  | .subImm c s rn rd op => some (encDpImm c 2 s rn rd op)
  | .subShiftImm c s rn rd op => some (encDpShiftImm c 2 s rn rd op)
  | .subShiftReg c s rn rd op => some (encDpShiftReg c 2 s rn rd op)
  | .rsbImm c s rn rd op => some (encDpImm c 3 s rn rd op)
  | .rsbShiftImm c s rn rd op => some (encDpShiftImm c 3 s rn rd op)
  | .rsbShiftReg c s rn rd op => some (encDpShiftReg c 3 s rn rd op)
  | .addImm c s rn rd op => some (encDpImm c 4 s rn rd op)
  | .addShiftImm c s rn rd op => some (encDpShiftImm c 4 s rn rd op)
  | .addShiftReg c s rn rd op => some (encDpShiftReg c 4 s rn rd op)
  | .adcImm c s rn rd op => some (encDpImm c 5 s rn rd op)
  | .adcShiftImm c s rn rd op => some (encDpShiftImm c 5 s rn rd op)
  | .adcShiftReg c s rn rd op => some (encDpShiftReg c 5 s rn rd op)
  | .sbcImm c s rn rd op => some (encDpImm c 6 s rn rd op)
  | .sbcShiftImm c s rn rd op => some (encDpShiftImm c 6 s rn rd op)
  | .sbcShiftReg c s rn rd op => some (encDpShiftReg c 6 s rn rd op)
  | .rscImm c s rn rd op => some (encDpImm c 7 s rn rd op)
  | .rscShiftImm c s rn rd op => some (encDpShiftImm c 7 s rn rd op)
  | .rscShiftReg c s rn rd op => some (encDpShiftReg c 7 s rn rd op)
  | .tstImm c rn op => some (encDpImm c 8 true rn 0 op)
  | .tstShiftImm c rn op => some (encDpShiftImm c 8 true rn 0 op)
  | .tstShiftReg c rn op => some (encDpShiftReg c 8 true rn 0 op)
  | .teqImm c rn op => some (encDpImm c 9 true rn 0 op)
  | .teqShiftImm c rn op => some (encDpShiftImm c 9 true rn 0 op)
  | .teqShiftReg c rn op => some (encDpShiftReg c 9 true rn 0 op)
  | .cmpImm c rn op => some (encDpImm c 10 true rn 0 op)
  | .cmpShiftImm c rn op => some (encDpShiftImm c 10 true rn 0 op)
  | .cmpShiftReg c rn op => some (encDpShiftReg c 10 true rn 0 op)
  | .cmnImm c rn op => some (encDpImm c 11 true rn 0 op)
  | .cmnShiftImm c rn op => some (encDpShiftImm c 11 true rn 0 op)
  | .cmnShiftReg c rn op => some (encDpShiftReg c 11 true rn 0 op)
  | .orrImm c s rn rd op => some (encDpImm c 12 s rn rd op)
  | .orrShiftImm c s rn rd op => some (encDpShiftImm c 12 s rn rd op)
  | .orrShiftReg c s rn rd op => some (encDpShiftReg c 12 s rn rd op)
  | .movImm c s rd op => some (encDpImm c 13 s 0 rd op)
  | .movShiftImm c s rd op => some (encDpShiftImm c 13 s 0 rd op)
  | .movShiftReg c s rd op => some (encDpShiftReg c 13 s 0 rd op)
  | .bicImm c s rn rd op => some (encDpImm c 14 s rn rd op)
  | .bicShiftImm c s rn rd op => some (encDpShiftImm c 14 s rn rd op)
  | .bicShiftReg c s rn rd op => some (encDpShiftReg c 14 s rn rd op)
  | .mvnImm c s rd op => some (encDpImm c 15 s 0 rd op)
  | .mvnShiftImm c s rd op => some (encDpShiftImm c 15 s 0 rd op)
  | .mvnShiftReg c s rd op => some (encDpShiftReg c 15 s 0 rd op)
  | .mul c s rd rs rm => some (encMultiply c 0b0000 s rd 0 rs rm)
  | .mla c s rd rn rs rm => some (encMultiply c 0b0001 s rd rn rs rm)
  | .umull c s rdHi rdLo rs rm => some (encMultiply c 0b0100 s rdHi rdLo rs rm)
  | .umlal c s rdHi rdLo rs rm => some (encMultiply c 0b0101 s rdHi rdLo rs rm)
  | .smull c s rdHi rdLo rs rm => some (encMultiply c 0b0110 s rdHi rdLo rs rm)
  | .smlal c s rdHi rdLo rs rm => some (encMultiply c 0b0111 s rdHi rdLo rs rm)
  | .swp c rn rd rm => some (encSwap c false rn rd rm)
  | .swpb c rn rd rm => some (encSwap c true rn rd rm)
  | .ldrhImmPre c u w rn rd imm =>
    some (encHalf c true u true w true 0b01 rn rd (imm.extractLsb' 4 4) (imm.extractLsb' 0 4))
  | .ldrhImmPost c u rn rd imm =>
    some (encHalf c false u true false true 0b01 rn rd (imm.extractLsb' 4 4) (imm.extractLsb' 0 4))
  | .ldrhRegPre c u w rn rd rm => some (encHalf c true u false w true 0b01 rn rd 0 rm)
  | .ldrhRegPost c u rn rd rm => some (encHalf c false u false false true 0b01 rn rd 0 rm)
  | .strhImmPre c u w rn rd imm =>
    some (encHalf c true u true w false 0b01 rn rd (imm.extractLsb' 4 4) (imm.extractLsb' 0 4))
  | .strhImmPost c u rn rd imm =>
    some (encHalf c false u true false false 0b01 rn rd (imm.extractLsb' 4 4) (imm.extractLsb' 0 4))
  | .strhRegPre c u w rn rd rm => some (encHalf c true u false w false 0b01 rn rd 0 rm)
  | .strhRegPost c u rn rd rm => some (encHalf c false u false false false 0b01 rn rd 0 rm)
  | .ldrsbImmPre c u w rn rd imm =>
    some (encHalf c true u true w true 0b10 rn rd (imm.extractLsb' 4 4) (imm.extractLsb' 0 4))
  | .ldrsbImmPost c u rn rd imm =>
    some (encHalf c false u true false true 0b10 rn rd (imm.extractLsb' 4 4) (imm.extractLsb' 0 4))
  | .ldrsbRegPre c u w rn rd rm => some (encHalf c true u false w true 0b10 rn rd 0 rm)
  | .ldrsbRegPost c u rn rd rm => some (encHalf c false u false false true 0b10 rn rd 0 rm)
  | .ldrshImmPre c u w rn rd imm =>
    some (encHalf c true u true w true 0b11 rn rd (imm.extractLsb' 4 4) (imm.extractLsb' 0 4))
  | .ldrshImmPost c u rn rd imm =>
    some (encHalf c false u true false true 0b11 rn rd (imm.extractLsb' 4 4) (imm.extractLsb' 0 4))
  | .ldrshRegPre c u w rn rd rm => some (encHalf c true u false w true 0b11 rn rd 0 rm)
  | .ldrshRegPost c u rn rd rm => some (encHalf c false u false false true 0b11 rn rd 0 rm)
  | .ldrImmPre c u w rn rd imm => some (encTransferImm c true u false w true rn rd imm)
  | .ldrImmPost c u rn rd imm => some (encTransferImm c false u false false true rn rd imm)
  | .ldrRegPre c u w rn rd off => some (encTransferReg c true u false w true rn rd off)
  | .ldrRegPost c u rn rd off => some (encTransferReg c false u false false true rn rd off)
  | .strImmPre c u w rn rd imm => some (encTransferImm c true u false w false rn rd imm)
  | .strImmPost c u rn rd imm => some (encTransferImm c false u false false false rn rd imm)
  | .strRegPre c u w rn rd off => some (encTransferReg c true u false w false rn rd off)
  | .strRegPost c u rn rd off => some (encTransferReg c false u false false false rn rd off)
  | .ldrbImmPre c u w rn rd imm => some (encTransferImm c true u true w true rn rd imm)
  | .ldrbImmPost c u rn rd imm => some (encTransferImm c false u true false true rn rd imm)
  | .ldrbRegPre c u w rn rd off => some (encTransferReg c true u true w true rn rd off)
  | .ldrbRegPost c u rn rd off => some (encTransferReg c false u true false true rn rd off)
  | .strbImmPre c u w rn rd imm => some (encTransferImm c true u true w false rn rd imm)
  | .strbImmPost c u rn rd imm => some (encTransferImm c false u true false false rn rd imm)
  | .strbRegPre c u w rn rd off => some (encTransferReg c true u true w false rn rd off)
  | .strbRegPost c u rn rd off => some (encTransferReg c false u true false false rn rd off)
  | .ldm c p u s w rn list => some (encBlock c p u s w true rn list)
  | .stm c p u s w rn list => some (encBlock c p u s w false rn list)
  | .b c imm => some (c.bits ++ 0b1010#4 ++ imm)
  | .bl c imm => some (c.bits ++ 0b1011#4 ++ imm)
  | .bx c rm => some (c.bits ++ 0b00010010#8 ++ 0xFFF#12 ++ 0b0001#4 ++ rm)
  | .blxReg c rm => some (c.bits ++ 0b00010010#8 ++ 0xFFF#12 ++ 0b0011#4 ++ rm)
  | .blxImm h imm => some (0b1111101#7 ++ bit h ++ imm)
  | .mrs c r rd => some (c.bits ++ 0b00010#5 ++ bit r ++ 0b001111#6 ++ rd ++ 0#12)
  | .msrReg c r mask rm => some (c.bits ++ 0b00010#5 ++ bit r ++ 0b10#2 ++ mask ++ 0b111100000000#12 ++ rm)
  | .msrImm c r mask op => some (c.bits ++ 0b00110#5 ++ bit r ++ 0b10#2 ++ mask ++ 0b1111#4 ++ op.rot ++ op.imm8)
  | .cdp c op1 crn crd cp op2 crm => some (c.bits ++ 0b1110#4 ++ op1 ++ crn ++ crd ++ cp ++ op2 ++ 0#1 ++ crm)
  | .ldc c p u n w rn crd cp off => some (encCoprocessorTransfer c p u n w true rn crd cp off)
  | .stc c p u n w rn crd cp off => some (encCoprocessorTransfer c p u n w false rn crd cp off)
  | .mcr c op1 crn rd cp op2 crm =>
    some (c.bits ++ 0b1110#4 ++ op1 ++ 0#1 ++ crn ++ rd ++ cp ++ op2 ++ 1#1 ++ crm)
  | .mrc c op1 crn rd cp op2 crm =>
    some (c.bits ++ 0b1110#4 ++ op1 ++ 1#1 ++ crn ++ rd ++ cp ++ op2 ++ 1#1 ++ crm)
  | .swi c imm => some (c.bits ++ 0b1111#4 ++ imm)
  | .bkpt imm => some (0b111000010010#12 ++ imm.extractLsb' 4 12 ++ 0b0111#4 ++ imm.extractLsb' 0 4)
  | .undefMem c hi lo => some (c.bits ++ 0b011#3 ++ hi ++ 1#1 ++ lo)
  | .undefMsr c y lo => some (c.bits ++ 0b00110#5 ++ bit y ++ 0b00#2 ++ lo)
  | .ldrPseudo _ _ _ _ _ => none
  | .adr _ _ _ _ => none
  | .adrl _ _ _ _ _ => none
  | .nop => none

/-- The words an assembler writes for an instruction: its own, or those of its expansion. -/
def encode (i : Instr) : List Word := i.expand.filterMap encodeWord

end Sys2Proof
end

