-- ==== Sys2Proof/Machine/State.lean ====
section
/-! DEFINITION. The state of the machine (10_state.md R45): plain data, everything the spec names, and the machine right
after reset. Also the closed lists of reasons for which the machine stops. -/
namespace Sys2Proof.Machine

/-- Memory contents: (address, byte) pairs in canonical form, see `Memory.wf` in Ops.lean. -/
abbrev Memory := List Host.Cell

/-- The width of a memory access (R76, R79). `swapWord` is the word access of SWP, which R74 does not allow misaligned
under any policy. -/
inductive Width where
  | byte | half | word | swapWord
  deriving DecidableEq, Repr

/-- The seven processor modes (R23). -/
inductive Mode where
  | user | fiq | irq | supervisor | abort | undefined | system
  deriving DecidableEq, Repr

/-- The exceptions an instruction or an interrupt line raises (R430); Reset is `takeReset`. -/
inductive Exception where
  | undefinedInstruction | softwareInterrupt | prefetchAbort | dataAbort | irq | fiq
  deriving DecidableEq, Repr

/-- The power modes (R490, R492). -/
inductive PowerMode where
  | normal | idle | sleep | powerDown
  deriving DecidableEq, Repr

/-- What resets the running chip (R630). Power-up is not among them: it is `State.reset`, where the machine starts. -/
inductive ResetCause where
  | external | watchdog | brownOut
  deriving DecidableEq, Repr

/-- What the environment presents at one instruction boundary: the request lines of the blocks outside the spec (R464),
the levels of the pins EINT0 to EINT3 (R486), and a reset (R630). -/
structure InputSample where
  lines : Word
  pins : BitVec 4
  reset : Option ResetCause
  deriving DecidableEq, Repr

/-- The inputs of the machine: the current levels, the previous pin levels (the edge detectors of R486), and what the
environment will present at the coming boundaries. An empty list leaves the levels as they are (log entry 8). -/
structure Environment where
  lines : Word
  pins : BitVec 4
  pinPrev : BitVec 4
  inputs : List InputSample
  deriving DecidableEq, Repr

/-- The five saved program status registers (R37). -/
structure Spsrs where
  fiq : Word
  irq : Word
  svc : Word
  abt : Word
  und : Word
  deriving DecidableEq, Repr

/-- The datum in the SRAM write-back buffer (R41 item 2, R92). -/
structure PendingStore where
  addr : Nat
  width : Width
  value : Word
  deriving DecidableEq, Repr

/-- The vectored interrupt controller (R466 to R480). `inService` has one bit per priority level (R479). -/
structure Vic where
  intSelect : Word
  intEnable : Word
  softInt : Word
  protection : Bool
  swPriorityMask : BitVec 16
  vectAddr : Vector Word 32
  vectPriority : Vector (BitVec 4) 32
  address : Word
  inService : BitVec 16
  deriving DecidableEq, Repr

/-- The external interrupt registers (R485 to R489); undescribed bits are not stored. -/
structure ExtInt where
  extint : BitVec 4
  intwake : BitVec 16
  extmode : BitVec 4
  extpolar : BitVec 4
  deriving DecidableEq, Repr

/-- The system control block (R547): the described bits of its registers, and the hidden PLL and oscillator state
(R553, R556, R548). `pllWait` and `oscWait` count boundaries until PLOCK and OSCSTAT (log entry 9). -/
structure SysControl where
  mamcr : BitVec 2
  mamtim : BitVec 3
  memmap : BitVec 2
  pllcon : BitVec 2
  pllcfg : Word
  pllConEff : BitVec 2
  pllCfgEff : Word
  feedArmed : Bool
  pllWait : Nat
  pcon : Byte
  pconp : Word
  cclkcfg : Byte
  usbclkcfg : BitVec 4
  clksrcsel : BitVec 2
  scs : Byte
  oscWait : Nat
  irctrim : Byte
  pclksel0 : Word
  pclksel1 : Word
  deriving DecidableEq, Repr

/-- The pin connect block (R620 to R623). -/
structure PinConnect where
  pinsel : Vector Word 11
  pinmode : Vector Word 10
  deriving DecidableEq, Repr

/-- The complete state (R45). `regs` holds the 30 general registers other than the PC in the order of `physIndex`;
`freeIdx` is the model's own count of the free values drawn (log entry 4). -/
structure State where
  regs : Vector Word 30
  pc : Word
  cpsr : Word
  spsr : Spsrs
  mem : Memory
  sramPending : Option PendingStore
  vic : Vic
  ext : ExtInt
  sys : SysControl
  pinConn : PinConnect
  emc : Vector Word 54
  power : PowerMode
  env : Environment
  userBankLdm : Bool
  freeIdx : Nat
  deriving DecidableEq, Repr

/-- Why a step stops in the middle of a run: behaviour that the spec refuses (`refuse` of R11), met while an instruction
runs. Each is safe: the hardware goes on in a way the spec does not define. -/
inductive Fault where
  /-- A value with wrong low bits was written to the PC in ARM state, or by BX, BLX or a return that leads to it (R30, R314,
  R438, D3); raised by every such PC write, and by a fetch at such a PC, which no run reaches. -/
  | misalignedPc
  /-- The PC ran past 0xFFFFFFFC (R29, D3). -/
  | pcOverflow
  /-- An SPSR form, or a `^` form, in User or System mode (R37, R223, D19). -/
  | noSpsr
  /-- A mode field that is none of the seven (R35, D20); raised by MSR and by exception return. -/
  | illegalMode
  /-- An MSR that changes the T bit (R34, D20). -/
  | msrChangesT
  /-- An access that stays misaligned under the policy (R74, D2). -/
  | misaligned
  /-- A device register accessed other than as one aligned word (R75, D2). -/
  | partialPeripheralAccess
  /-- A store to the on-chip Flash (R77, D12). -/
  | flashStore
  /-- A store to the boot block (R90, D12). -/
  | bootStore
  /-- A store into the two prefetched words (R100, R646, D5). -/
  | storeIntoPrefetch
  /-- An LDM or STM whose addresses run past 0xFFFFFFFF (R103, D6). -/
  | addressWrap
  /-- A store to a device register the spec does not describe (R81, D13). -/
  | undescribedRegister
  /-- A write that selects a reserved field value (D26 b). -/
  | reservedFieldValue
  /-- A CLKSRCSEL change while the PLL is connected (R550, D26 c). -/
  | clockSwitchWhileConnected
  /-- An EMC register or external bank with PCONP.PCEMC = 0 (R566, D26 d). -/
  | emcUnpowered
  /-- An access below 0x40 while MEMMAP.MAP = 11 (R88). No run reaches such a state. -/
  | memmapReserved
  deriving DecidableEq, Repr

/-- Why a word or an instruction has no meaning in the state it stands in. Each is safe. -/
inductive Refusal where
  /-- An instruction whose meaning is not written; raised by the arms of `exec` only. -/
  | notModelled (mnemonic : String)
  /-- A step that begins in Thumb state (R372, D22). -/
  | thumbState
  /-- A word that is no instruction of the spec (R147, R148, R149, D7, D9). -/
  | undecodable (e : DecodeError)
  /-- An operand combination the spec calls UNPREDICTABLE (R651, D6). -/
  | unpredictable (e : IllFormed)
  /-- A banked register named directly after a User-bank LDM (R652, D6). -/
  | bankedRegisterAfterUserLdm
  /-- MCR of R15 to a coprocessor that is present (R346). -/
  | coprocessorPc
  deriving DecidableEq, Repr

/-- The outcome of an instruction or a step. -/
abbrev Result := Host.Outcome State Fault Refusal

/-- The stored EMC registers and their reset values, in address order: (offset from 0xFFE08000, reset) (R546). -/
def emcTable : List (Nat × Word) :=
  [(0x000, 0x3), (0x004, 0x5), (0x008, 0x0), (0x020, 0x6), (0x024, 0x0), (0x028, 0x0), (0x030, 0x0F), (0x034, 0x0F),
   (0x038, 0x0F), (0x03C, 0x0F), (0x040, 0x0F), (0x044, 0x0F), (0x048, 0x1F), (0x04C, 0x1F), (0x050, 0x1F),
   (0x054, 0x0F), (0x058, 0x0F)] ++
  [(0x100, 0x0), (0x104, 0x303), (0x120, 0x0), (0x124, 0x303), (0x140, 0x0), (0x144, 0x303), (0x160, 0x0),
   (0x164, 0x303)] ++
  [(0x200, 0x0), (0x204, 0x0), (0x208, 0x0), (0x20C, 0x0), (0x210, 0x1F), (0x214, 0x1F), (0x218, 0x0F),
   (0x220, 0x0), (0x224, 0x0), (0x228, 0x0), (0x22C, 0x0), (0x230, 0x1F), (0x234, 0x1F), (0x238, 0x0F)] ++
  [(0x240, 0x0), (0x244, 0x0), (0x248, 0x0), (0x24C, 0x0), (0x250, 0x1F), (0x254, 0x1F), (0x258, 0x0F),
   (0x260, 0x0), (0x264, 0x0), (0x268, 0x0), (0x26C, 0x0), (0x270, 0x1F), (0x274, 0x1F), (0x278, 0x0F), (0x880, 0x0)]

/-- The EMC registers after reset (R546, R632). -/
def emcReset : Vector Word 54 := Vector.ofFn fun i => (emcTable.getD i.val (0, 0)).2

/-- The VIC after reset (R632, R633). -/
def vicReset : Vic :=
  { intSelect := 0, intEnable := 0, softInt := 0, protection := false, swPriorityMask := 0xFFFF,
    vectAddr := Vector.replicate 32 0, vectPriority := Vector.replicate 32 0xF, address := 0, inService := 0 }

/-- The external interrupt registers after reset (R632). -/
def extReset : ExtInt := { extint := 0, intwake := 0, extmode := 0, extpolar := 0 }

/-- The system control block after reset (R632, R633), `nsel` the open reset value of PLLCFG.NSEL (R632 note 2) and
`map` that of MEMMAP.MAP (R635). -/
def sysReset (map : BitVec 2) (nsel : Byte) : SysControl :=
  { mamcr := 0, mamtim := 7, memmap := map, pllcon := 0, pllcfg := 0#8 ++ nsel ++ 0#16, pllConEff := 0,
    pllCfgEff := 0#8 ++ nsel ++ 0#16, feedArmed := false, pllWait := 0, pcon := 0, pconp := 0x04280FFE, cclkcfg := 0,
    usbclkcfg := 0, clksrcsel := 0, scs := 0, oscWait := 0, irctrim := 0xA0, pclksel0 := 0, pclksel1 := 0 }

/-- The machine when a program gets control after power-up: the hand-over state of R635 (D28), R631 to R634. What the
spec leaves open (`any value`) is zero here, DESIGN CHOICE (log entries 1, 2, 4); the pins stand high. -/
def State.reset : State :=
  { regs := Vector.replicate 30 0, pc := 0, cpsr := 0x000000D3,
    spsr := { fiq := 0, irq := 0, svc := 0, abt := 0, und := 0 }, mem := [], sramPending := none, vic := vicReset,
    ext := extReset, sys := sysReset 1 0,
    pinConn := { pinsel := Vector.replicate 11 0, pinmode := Vector.replicate 10 0 }, emc := emcReset,
    power := .normal, env := { lines := 0, pins := 0xF, pinPrev := 0xF, inputs := [] }, userBankLdm := false,
    freeIdx := 0 }

end Sys2Proof.Machine
end

