-- ==== Sys2Proof/Machine/Flags.lean ====
section
/-! DEFINITION. The flags and the other fields of the CPSR (10_state.md R31 to R36), the condition test (R171) and every
flag computation of the spec (42_data_processing.md R252, 43_multiply.md R292). -/
namespace Sys2Proof.Machine

/-- The four condition flags (R32). -/
structure Flags where
  n : Bool
  z : Bool
  c : Bool
  v : Bool
  deriving DecidableEq, Repr

/-- N, Z, C, V are bits 31 to 28 of a status word (R31). -/
def flagsOf (psr : Word) : Flags :=
  { n := psr.getLsbD 31, z := psr.getLsbD 30, c := psr.getLsbD 29, v := psr.getLsbD 28 }

/-- A status word with its flags replaced; bits 27:0 stay (R31). -/
def withFlags (psr : Word) (f : Flags) : Word :=
  BitVec.ofBool f.n ++ BitVec.ofBool f.z ++ BitVec.ofBool f.c ++ BitVec.ofBool f.v ++ psr.extractLsb' 0 28

/-- The flags now. -/
def State.flags (st : State) : Flags := flagsOf st.cpsr

/-- The I bit: IRQ disabled (R31, R33). -/
def State.irqDisabled (st : State) : Bool := st.cpsr.getLsbD 7

/-- The F bit: FIQ disabled (R31, R33). -/
def State.fiqDisabled (st : State) : Bool := st.cpsr.getLsbD 6

/-- The T bit: Thumb state (R31, R34). -/
def State.thumb (st : State) : Bool := st.cpsr.getLsbD 5

/-- The flags replaced, the rest of the CPSR kept. -/
def State.setFlags (st : State) (f : Flags) : State := { st with cpsr := withFlags st.cpsr f }

/-- A status word with bit 5, T, replaced. -/
def withThumb (psr : Word) (t : Bool) : Word := psr.extractLsb' 6 26 ++ BitVec.ofBool t ++ psr.extractLsb' 0 5

/-- `ConditionPassed(cond)` (R171). -/
def condHolds (c : Cond) (f : Flags) : Bool :=
  match c with
  | .eq => f.z
  | .ne => !f.z
  | .cs => f.c
  | .cc => !f.c
  | .mi => f.n
  | .pl => !f.n
  | .vs => f.v
  | .vc => !f.v
  | .hi => f.c && !f.z
  | .ls => !f.c || f.z
  | .ge => f.n == f.v
  | .lt => f.n != f.v
  | .gt => !f.z && f.n == f.v
  | .le => f.z || f.n != f.v
  | .al => true

/-- The condition, tested on the flags as they stand (R171, R172). -/
def State.passes (st : State) (c : Cond) : Bool := condHolds c st.flags

/-- What a data-processing operation computes: the 32-bit result and the flags it would set (R251). -/
structure AluResult where
  value : Word
  flags : Flags
  deriving DecidableEq, Repr

/-- The logical row of R252: N, Z from the result, C the shifter carry-out, V unchanged. -/
def logicalResult (r : Word) (shifterCarry : Bool) (old : Flags) : AluResult :=
  { value := r, flags := { n := r.msb, z := r == 0, c := shifterCarry, v := old.v } }

/-- The addition row of R252: `a + b + cin`. -/
def addResult (a b : Word) (cin : Bool) : AluResult :=
  let r := a + b + BitVec.setWidth 32 (BitVec.ofBool cin)
  { value := r,
    flags :=
      { n := r.msb, z := r == 0, c := decide (2 ^ 32 ≤ a.toNat + b.toNat + cin.toNat),
        v := a.msb == b.msb && r.msb != a.msb } }

/-- The subtraction row of R252: `a - b - (1 - cin)`, computed as `a + NOT b + cin`; C is NOT borrow. -/
def subResult (a b : Word) (cin : Bool) : AluResult := addResult a (~~~b) cin

/-- N and Z of a multiply (R292); C and V are given. -/
def multiplyFlags {n : Nat} (r : BitVec n) (c v : Bool) : Flags := { n := r.msb, z := r == 0, c := c, v := v }

end Sys2Proof.Machine
end

