-- ==== Sys2Proof/Machine/Operands.lean ====
section
/-! DEFINITION. The shifter operand (40_conditions_and_operand2.md R179 to R184) and the operand restrictions of
70_reset_and_hazards.md R651. -/
namespace Sys2Proof.Machine

/-- `ShifterOperand`: the value and the carry-out (R184). -/
structure Shifted where
  value : Word
  carry : Bool
  deriving DecidableEq, Repr

/-- LSL by `n` (R179); `c` is the carry flag. -/
def shiftLsl (x : Word) (n : Nat) (c : Bool) : Shifted :=
  if n = 0 then { value := x, carry := c }
  else if n ≤ 31 then { value := x <<< n, carry := x.getLsbD (32 - n) }
  else if n = 32 then { value := 0, carry := x.getLsbD 0 }
  else { value := 0, carry := false }

/-- LSR by `n` (R180). -/
def shiftLsr (x : Word) (n : Nat) (c : Bool) : Shifted :=
  if n = 0 then { value := x, carry := c }
  else if n ≤ 31 then { value := x >>> n, carry := x.getLsbD (n - 1) }
  else if n = 32 then { value := 0, carry := x.getLsbD 31 }
  else { value := 0, carry := false }

/-- ASR by `n` (R181). -/
def shiftAsr (x : Word) (n : Nat) (c : Bool) : Shifted :=
  if n = 0 then { value := x, carry := c }
  else if n ≤ 31 then { value := x.sshiftRight n, carry := x.getLsbD (n - 1) }
  else { value := if x.getLsbD 31 then BitVec.allOnes 32 else 0, carry := x.getLsbD 31 }

/-- ROR by `n` (R182). -/
def shiftRor (x : Word) (n : Nat) (c : Bool) : Shifted :=
  if n = 0 then { value := x, carry := c }
  else if n % 32 = 0 then { value := x, carry := x.getLsbD 31 }
  else { value := x.rotateRight (n % 32), carry := x.getLsbD (n % 32 - 1) }

/-- RRX (R183): `x` and C rotated right by one place. -/
def shiftRrx (x : Word) (c : Bool) : Shifted :=
  { value := BitVec.ofBool c ++ x.extractLsb' 1 31, carry := x.getLsbD 0 }

/-- A shift by a register amount (R184, last case). -/
def shiftBy (kind : ShiftKind) (x : Word) (n : Nat) (c : Bool) : Shifted :=
  match kind with
  | .lsl => shiftLsl x n c
  | .lsr => shiftLsr x n c
  | .asr => shiftAsr x n c
  | .ror => shiftRor x n c

/-- A shift by the immediate field value `n`; 0 means LSL #0, LSR #32, ASR #32 or RRX (R127, R184). -/
def shiftByField (kind : ShiftKind) (x : Word) (n : Nat) (c : Bool) : Shifted :=
  match kind with
  | .lsl => shiftLsl x n c
  | .lsr => shiftLsr x (if n = 0 then 32 else n) c
  | .asr => shiftAsr x (if n = 0 then 32 else n) c
  | .ror => if n = 0 then shiftRrx x c else shiftRor x n c

/-- The value of an immediate operand 2 (R126). -/
def rotImmValue (op : RotImm) : Word := (op.imm8.setWidth 32).rotateRight (2 * op.rot.toNat)

/-- The immediate shifter operand (R184, first case). -/
def rotImmShifted (op : RotImm) (c : Bool) : Shifted :=
  { value := rotImmValue op, carry := if op.rot = 0 then c else (rotImmValue op).getLsbD 31 }

/-- The operand restrictions, found from the instruction alone (R651, D6). A meaning asks once its condition has passed. -/
def operandFault (i : Instr) : Option IllFormed := i.illFormed

end Sys2Proof.Machine
end

