-- ==== Sys2Proof/Machine/Params.lean ====
section
/-! DEFINITION. The parameters of 00_scope.md R8 that this model fixes. `ARCH_V5T` is in Decode.lean; `F_OSC`, `F_RTC`,
`F_IRC` are used by no rule (R8, R660). -/
namespace Sys2Proof.Machine

/-- Parameter `MISALIGNED_POLICY` (R8, R74, D2). -/
inductive MisalignedPolicy where
  /-- A misaligned access stops the machine. -/
  | refuse
  /-- The ARM7TDMI's own behaviour: LDR rotates, STR, LDM and STM ignore the low address bits. -/
  | arm7tdmi
  deriving DecidableEq, Repr

/-- DESIGN CHOICE `arm7tdmi` (log entry 5): R74 allows it, and it gives the access an effect. -/
def misalignedPolicy : MisalignedPolicy := .arm7tdmi

/-- Parameter `COPROC_PRESENT(n)`: no coprocessor (R8, R341, D8). -/
def coprocPresent (_cp : BitVec 4) : Bool := false

/-- Parameter `PC_STORE_OFFSET` (R8, R30, D17). -/
def pcStoreOffset : Word := 12

/-- Parameter `FLASH_SIZE` (R7, R8). -/
def flashSize : Nat := 0x80000

/-- Parameter `EXT_STATIC_BANK_PRESENT(k)`: none fitted (R8, R94, D12). -/
def extStaticBankPresent (_k : Nat) : Bool := false

/-- Parameter `EXT_DYNAMIC_BANK_PRESENT(k)`: none fitted (R8, R94, D12). -/
def extDynamicBankPresent (_k : Nat) : Bool := false

/-- Whether the model starts in the boot loader (`BOOT_ROM` supplied) or at its hand-over (R635, D28). -/
def bootRomSupplied : Bool := false

end Sys2Proof.Machine
end

