-- ==== Sys2Proof/Machine/Ops.lean ====
section
/-! DEFINITION. The named operations over the registers, the program counter, the memory bytes and the free values; taking
an exception and returning from one (60_exceptions.md R436, R438). -/
namespace Sys2Proof.Machine

/-! ### Modes -/

/-- The mode number M[4:0] (R23). -/
def Mode.bits : Mode → BitVec 5
  | .user => 0x10 | .fiq => 0x11 | .irq => 0x12 | .supervisor => 0x13 | .abort => 0x17 | .undefined => 0x1B
  | .system => 0x1F

/-- The mode with number `m`, if there is one (R23, R35). -/
def Mode.ofBits (m : BitVec 5) : Option Mode :=
  if m = 0x10 then some .user else if m = 0x11 then some .fiq else if m = 0x12 then some .irq
  else if m = 0x13 then some .supervisor else if m = 0x17 then some .abort else if m = 0x1B then some .undefined
  else if m = 0x1F then some .system else none

/-- The mode a status word names (R31); none where M is not one of the seven. -/
def modeOf (psr : Word) : Option Mode := Mode.ofBits (psr.extractLsb' 0 5)

/-- The current mode. An illegal M, which no run reaches, reads as User (log entry 11). -/
def State.mode (st : State) : Mode := (modeOf st.cpsr).getD .user

/-- Every mode but User is privileged (R23, R444). -/
def Mode.privileged (m : Mode) : Bool := m != .user

/-! ### General registers -/

/-- Where register `r` of mode `m` stands in `State.regs` (R24): 0 to 14 the User bank, 15 to 21 R8_fiq to R14_fiq, then
R13 and R14 of IRQ, Supervisor, Abort and Undefined. R15 has no place here; its entry is never used. -/
def physIndex (m : Mode) (r : RegNum) : Fin 30 :=
  let n := r.toNat
  match m with
  | .user | .system => Fin.ofNat 30 n
  | .fiq => if n < 8 then Fin.ofNat 30 n else Fin.ofNat 30 (n + 7)
  | .irq => if n < 13 then Fin.ofNat 30 n else Fin.ofNat 30 (n + 9)
  | .supervisor => if n < 13 then Fin.ofNat 30 n else Fin.ofNat 30 (n + 11)
  | .abort => if n < 13 then Fin.ofNat 30 n else Fin.ofNat 30 (n + 13)
  | .undefined => if n < 13 then Fin.ofNat 30 n else Fin.ofNat 30 (n + 15)

/-- Register `r` of mode `m`; R15 is the PC itself. -/
def State.regIn (st : State) (m : Mode) (r : RegNum) : Word :=
  if r = 15 then st.pc else st.regs[physIndex m r]

/-- `R_m[r] <- v`; for R15 the PC itself, with no check. -/
def State.setRegIn (st : State) (m : Mode) (r : RegNum) (v : Word) : State :=
  { st with
    regs := if r = 15 then st.regs else st.regs.set (physIndex m r) v
    pc := if r = 15 then v else st.pc }

/-- Register `r` of the current mode, R15 being the address of the instruction (no +8). -/
def State.reg (st : State) (r : RegNum) : Word := st.regIn st.mode r

/-- `R[r] <- v` of the current mode. -/
def State.setReg (st : State) (r : RegNum) (v : Word) : State := st.setRegIn st.mode r v

/-- `R[r]` as an operand: R15 reads the address of the instruction plus 8 (R28). -/
def State.readReg (st : State) (r : RegNum) : Word := if r = 15 then st.pc + 8 else st.reg r

/-- `R[r]` as the datum of STR or STM: R15 stores the address of the instruction plus `pcStoreOffset` (R30, D17). -/
def State.storeReg (st : State) (r : RegNum) : Word := if r = 15 then st.pc + pcStoreOffset else st.reg r

/-! ### Saved status registers -/

/-- The SPSR of a mode; User and System have none (R37). -/
def Spsrs.get (s : Spsrs) (m : Mode) : Option Word :=
  match m with
  | .user => none
  | .system => none
  | .fiq => some s.fiq
  | .irq => some s.irq
  | .supervisor => some s.svc
  | .abort => some s.abt
  | .undefined => some s.und

/-- `SPSR_m <- v`; nothing in a mode that has none. -/
def Spsrs.set (s : Spsrs) (m : Mode) (v : Word) : Spsrs :=
  match m with
  | .user => s
  | .system => s
  | .fiq => { s with fiq := v }
  | .irq => { s with irq := v }
  | .supervisor => { s with svc := v }
  | .abort => { s with abt := v }
  | .undefined => { s with und := v }

/-- The SPSR of the current mode (R37). -/
def State.currentSpsr (st : State) : Option Word := st.spsr.get st.mode

/-! ### Program counter -/

/-- The next instruction is the one at `A + 4`; past 0xFFFFFFFC the machine stops (R29, D3). -/
def advance (st : State) : Result :=
  if st.pc = 0xFFFFFFFC then .fault .pcOverflow else .next { st with pc := st.pc + 4 }

/-- A PC write in ARM state: the target must be word aligned (R30, D3). -/
def branchTo (target : Word) (st : State) : Result :=
  if target.extractLsb' 0 2 = 0 then .next { st with pc := target } else .fault .misalignedPc

/-- The PC write of BX and BLX: bit 0 selects the state (R314, R316). -/
def branchExchange (target : Word) (st : State) : Result :=
  if target.getLsbD 0 then .next { st with cpsr := withThumb st.cpsr true, pc := target &&& 0xFFFFFFFE }
  else if target.getLsbD 1 then .fault .misalignedPc
  else .next { st with cpsr := withThumb st.cpsr false, pc := target }

/-- The condition test that stands before every conditional meaning (R12 steps 4 and 5, R170): a failed condition only
advances the PC; a passed one refuses an operand combination the spec calls UNPREDICTABLE (D6), else does `act`. -/
def conditional (c : Cond) (i : Instr) (st : State) (act : State → Result) : Result :=
  if st.passes c then
    match operandFault i with
    | some why => .refused (.unpredictable why)
    | none => act st
  else advance st

/-! ### Free values (R11 `any value`) -/

/-- Draw one free word (log entry 4). -/
def State.free (st : State) : Word := Config.freeWord st.freeIdx

/-- The state after a draw. -/
def State.drawn (st : State) : State := { st with freeIdx := st.freeIdx + 1 }

/-! ### Memory bytes -/

/-- What a byte that nothing has written reads as: DESIGN CHOICE 0 (log entry 2). -/
def unwrittenByte : Byte := 0

/-- The byte at `a`. -/
def Memory.get : Memory → Nat → Byte
  | [], _ => unwrittenByte
  | (k, b) :: rest, a => if k = a then b else Memory.get rest a

/-- Write one byte, keeping the canonical form. -/
def Memory.set : Memory → Nat → Byte → Memory
  | [], a, v => if v = unwrittenByte then [] else [(a, v)]
  | (k, b) :: rest, a, v =>
    if a < k then (if v = unwrittenByte then (k, b) :: rest else (a, v) :: (k, b) :: rest)
    else if a = k then (if v = unwrittenByte then rest else (a, v) :: rest)
    else (k, b) :: Memory.set rest a v

/-- Every listed address is at least `lo`, the addresses strictly rise, and no byte equals `unwrittenByte`. -/
def Memory.wfFrom : Nat → Memory → Bool
  | _, [] => true
  | lo, (k, b) :: rest => decide (lo ≤ k) && b != unwrittenByte && Memory.wfFrom (k + 1) rest

/-- The canonical form: addresses strictly rising, no entry equal to what an unlisted address reads as. -/
def Memory.wf (m : Memory) : Bool := Memory.wfFrom 0 m

/-- The number of bytes of an access (R76). -/
def Width.bytes : Width → Nat
  | .byte => 1
  | .half => 2
  | .word => 4
  | .swapWord => 4

/-- Store the low `n` bytes of `v` at `a`, little-endian (R70). -/
def Memory.store (m : Memory) (a : Nat) (n : Nat) (v : Word) : Memory :=
  match n with
  | 0 => m
  | k + 1 => Memory.store (m.set a (v.extractLsb' 0 8)) (a + 1) k (v >>> 8)

/-- The SRAM write-back buffer written to the cells (R92). -/
def commitPending (m : Memory) : Option PendingStore → Memory
  | none => m
  | some p => m.store p.addr p.width.bytes p.value

/-- The byte of `p` at address `a`, if the pending datum covers it (R92). -/
def PendingStore.byteAt (p : PendingStore) (a : Nat) : Option Byte :=
  if p.addr ≤ a ∧ a < p.addr + p.width.bytes then some (p.value.extractLsb' (8 * (a - p.addr)) 8) else none

/-- The first address of the boot block (R90). -/
def bootBase : Nat := 0x7FFFE000

/-- The byte that a read of physical address `a` sees in memory: pending data over the cells (R92), the boot ROM in the
boot block (R90). Memory is an array of bytes (R72). -/
def State.byteAt (st : State) (a : Nat) : Byte :=
  if bootBase ≤ a ∧ a < 0x80000000 then Config.bootRom (a - bootBase)
  else
    match st.sramPending.bind fun p => p.byteAt a with
    | some b => b
    | none => st.mem.get a

/-- The `n`-byte little-endian value at `a` (R70, R76 step 4), zero-extended. -/
def State.bytesAt (st : State) (a : Nat) : Nat → Word
  | 0 => 0
  | k + 1 => (State.bytesAt st (a + 1) k <<< 8) ||| (st.byteAt a).setWidth 32

/-! ### Exceptions -/

/-- The mode an exception enters (R436). -/
def Exception.mode : Exception → Mode
  | .undefinedInstruction => .undefined
  | .softwareInterrupt => .supervisor
  | .prefetchAbort => .abort
  | .dataAbort => .abort
  | .irq => .irq
  | .fiq => .fiq

/-- The vector of an exception (R87, R436). -/
def Exception.vector : Exception → Word
  | .undefinedInstruction => 0x04
  | .softwareInterrupt => 0x08
  | .prefetchAbort => 0x0C
  | .dataAbort => 0x10
  | .irq => 0x18
  | .fiq => 0x1C

/-- `return_value(E)` (R436): what R14 receives, from the old PC (the address A of the instruction, or for IRQ and FIQ that
of the next one) and the old T bit. -/
def Exception.returnAddress (e : Exception) (pc : Word) (thumb : Bool) : Word :=
  match e with
  | .undefinedInstruction => pc + (if thumb then 2 else 4)
  | .softwareInterrupt => pc + (if thumb then 2 else 4)
  | .prefetchAbort => pc + 4
  | .dataAbort => pc + 8
  | .irq => pc + 4
  | .fiq => pc + 4

/-- The CPSR on entry (R436): M the new mode, T 0, I 1, F 1 for FIQ and kept for the others, the rest kept. -/
def entryCpsr (e : Exception) (psr : Word) : Word :=
  psr.extractLsb' 8 24 ++ 1#1 ++ BitVec.ofBool (e == .fiq || psr.getLsbD 6) ++ 0#1 ++ e.mode.bits

/-- Taking exception `e` (R436): the one entry sequence, shared by every exception but Reset. -/
def takeException (e : Exception) (st : State) : State :=
  { st with
    regs := st.regs.set (physIndex e.mode 14) (e.returnAddress st.pc st.thumb)
    spsr := st.spsr.set e.mode st.cpsr
    cpsr := entryCpsr e st.cpsr
    pc := e.vector
    userBankLdm := false }

/-- Whether a PC value is aligned for the state its status word selects (R27, R438): both low bits 0 in ARM state, bit 0 in
Thumb state. -/
def alignedFor (psr target : Word) : Bool :=
  if psr.getLsbD 5 then !target.getLsbD 0 else target.extractLsb' 0 2 == 0

/-- Returning from an exception (R253, R222, R438): `CPSR <- SPSR` and `pc <- target` together. A target with wrong low bits
for a return to ARM state stops the machine (R438, D3). Which PC an odd target gives in Thumb state the spec does not state;
DESIGN CHOICE (log entry 38): the return completes, and the PC is a free value with bit 0 clear (R27). -/
def exceptionReturn (target : Word) (st : State) : Result :=
  match st.currentSpsr with
  | none => .fault .noSpsr
  | some psr =>
    match modeOf psr with
    | none => .fault .illegalMode
    | some _ =>
      if alignedFor psr target then .next { st with cpsr := psr, pc := target }
      else if psr.getLsbD 5 then .next { st.drawn with cpsr := psr, pc := st.free &&& 0xFFFFFFFE }
      else .fault .misalignedPc

end Sys2Proof.Machine
end

