-- ==== Sys2Proof/Machine/Vic.lean ====
section
/-! DEFINITION. The result of a bus access, and the vectored interrupt controller: its logic (60_exceptions.md R461 to R464)
and its registers (R465 to R480). -/
namespace Sys2Proof.Machine

/-- What a memory access does (R76, R77): it succeeds, or raises Data Abort, or the machine stops. -/
inductive Access (α : Type) where
  | ok (v : α) (st : State)
  | abort (st : State)
  | stop (f : Fault)
  deriving Repr

/-- A register read (D26 a): the described bits `mask` of `v`; the other bits are free. -/
def readBits (mask v : Word) (st : State) : Access Word :=
  if mask = BitVec.allOnes 32 then .ok v st else .ok ((v &&& mask) ||| (st.free &&& ~~~mask)) st.drawn

/-- A read that gives `any value` (D13). -/
def readAny (st : State) : Access Word := .ok st.free st.drawn

/-- PLLSTAT.PLOCK (R553): 1 once the PLL is enabled and its lock time has passed. -/
def SysControl.plock (s : SysControl) : Bool := s.pllConEff.getLsbD 0 && s.pllWait == 0

/-- Whether the brown-out detector works (R492): not while PCON.BOGD is 1, nor in power-down mode while BODPDM is 1. -/
def State.bodDetects (st : State) : Bool :=
  !(st.sys.pcon.getLsbD 3 || (st.sys.pcon.getLsbD 2 && st.power == .powerDown))

/-- The request lines of the blocks outside the spec (R464), the detector's line 20 down while it does not work (R492, log
entry 41). -/
def State.blockLines (st : State) : Word :=
  if st.bodDetects then st.env.lines else st.env.lines &&& 0xFFEFFFFF

/-- The interrupt request inputs `req` (R464): channel 12 is PLOCK, 14 to 17 are EXTINT, channel 1 has no source, the
others are the lines of the blocks; channel 17 is shared with the GPIO interrupts (R462). -/
def State.requests (st : State) : Word :=
  (st.blockLines &&& 0xFFFE2FFD) ||| ((BitVec.ofBool st.sys.plock).setWidth 32 <<< 12)
    ||| (st.ext.extint.setWidth 32 <<< 14)

/-- VICRawIntr (R461, R469). -/
def State.vicRaw (st : State) : Word := st.requests ||| st.vic.softInt

/-- VICIRQStatus (R461, R473). -/
def State.vicIrqStatus (st : State) : Word := st.vicRaw &&& st.vic.intEnable &&& ~~~st.vic.intSelect

/-- VICFIQStatus (R461, R474). -/
def State.vicFiqStatus (st : State) : Word := st.vicRaw &&& st.vic.intEnable &&& st.vic.intSelect

/-- The FIQ output (R461). -/
def State.fiqLine (st : State) : Bool := st.vicFiqStatus != 0

/-- Whether level `p` is numerically below every priority level in service (R461, R479). -/
def Vic.aboveService (v : Vic) (p : BitVec 4) : Bool :=
  (List.range 16).all fun l => !v.inService.getLsbD l || decide (p.toNat < l)

/-- `eligible(i)` (R461): an active IRQ whose level is neither masked nor held off by a level in service. -/
def State.eligible (st : State) (i : Fin 32) : Bool :=
  st.vicIrqStatus.getLsbD i.val && st.vic.swPriorityMask.getLsbD (st.vic.vectPriority[i]).toNat
    && st.vic.aboveService st.vic.vectPriority[i]

/-- The IRQ output (R461). -/
def State.irqLine (st : State) : Bool := (List.finRange 32).any st.eligible

/-- The eligible channel with the least pair (priority, channel) (R463): the earlier channel stays unless a later one has
a strictly smaller priority number. -/
def State.irqWinner (st : State) : Option (Fin 32) :=
  (List.finRange 32).foldl
    (fun best i =>
      if st.eligible i then
        match best with
        | none => some i
        | some w => if st.vic.vectPriority[i] < st.vic.vectPriority[w] then some i else some w
      else best)
    none

/-- The least (highest-priority) level in service (R479). -/
def Vic.topService (v : Vic) : Option Nat := (List.range 16).find? fun l => v.inService.getLsbD l

/-- One bit of a 16-bit set. -/
def levelBit (l : Nat) : BitVec 16 := 1#16 <<< l

/-- The VIC's registers (R466). -/
inductive VicReg where
  | irqStatus | fiqStatus | rawIntr | intSelect | intEnable | intEnClr | softInt | softIntClear | protection
  | swPriorityMask
  | vectAddr (n : Fin 32)
  | vectPriority (n : Fin 32)
  | address
  deriving DecidableEq, Repr

/-- The register at byte offset `off` from 0xFFFFF000 (R466). -/
def VicReg.ofOffset (off : Nat) : Option VicReg :=
  if 0x100 ≤ off ∧ off < 0x180 then some (.vectAddr (Fin.ofNat 32 ((off - 0x100) / 4)))
  else if 0x200 ≤ off ∧ off < 0x280 then some (.vectPriority (Fin.ofNat 32 ((off - 0x200) / 4)))
  else
    match off with
    | 0x000 => some .irqStatus
    | 0x004 => some .fiqStatus
    | 0x008 => some .rawIntr
    | 0x00C => some .intSelect
    | 0x010 => some .intEnable
    | 0x014 => some .intEnClr
    | 0x018 => some .softInt
    | 0x01C => some .softIntClear
    | 0x020 => some .protection
    | 0x024 => some .swPriorityMask
    | 0xF00 => some .address
    | _ => none

/-- Whether VICProtection forbids the access (R478): in User mode VICProtection always, the others while it is 1. -/
def State.vicForbids (st : State) (r : VicReg) : Bool :=
  !st.mode.privileged && (st.vic.protection || r == .protection)

/-- Reading VICAddress (R480): the winner's vector address, its level put in service; the stored value if none. -/
def readVicAddress (st : State) : Access Word :=
  match st.irqWinner with
  | some w =>
    .ok st.vic.vectAddr[w]
      { st with
        vic := { st.vic with
          address := st.vic.vectAddr[w]
          inService := st.vic.inService ||| levelBit (st.vic.vectPriority[w]).toNat } }
  | none => .ok st.vic.address st

/-- The read action of a VIC register (R465 to R480). -/
def readVicReg (r : VicReg) (st : State) : Access Word :=
  match r with
  | .irqStatus => .ok st.vicIrqStatus st
  | .fiqStatus => .ok st.vicFiqStatus st
  | .rawIntr => .ok st.vicRaw st
  | .intSelect => .ok st.vic.intSelect st
  | .intEnable => .ok st.vic.intEnable st
  | .intEnClr => readAny st
  | .softInt => .ok st.vic.softInt st
  | .softIntClear => readAny st
  | .protection => readBits 0x1 ((BitVec.ofBool st.vic.protection).setWidth 32) st
  | .swPriorityMask => readBits 0xFFFF (st.vic.swPriorityMask.setWidth 32) st
  | .vectAddr n => .ok st.vic.vectAddr[n] st
  | .vectPriority n => readBits 0xF ((st.vic.vectPriority[n]).setWidth 32) st
  | .address => readVicAddress st

/-- The VIC after a write to one of its registers (R465 to R480). -/
def writeVicReg (r : VicReg) (v : Word) (vic : Vic) : Vic :=
  match r with
  | .irqStatus => vic
  | .fiqStatus => vic
  | .rawIntr => vic
  | .intSelect => { vic with intSelect := v }
  | .intEnable => { vic with intEnable := vic.intEnable ||| v }
  | .intEnClr => { vic with intEnable := vic.intEnable &&& ~~~v }
  | .softInt => { vic with softInt := vic.softInt ||| v }
  | .softIntClear => { vic with softInt := vic.softInt &&& ~~~v }
  | .protection => { vic with protection := v.getLsbD 0 }
  | .swPriorityMask => { vic with swPriorityMask := v.extractLsb' 0 16 }
  | .vectAddr n => { vic with vectAddr := vic.vectAddr.set n v }
  | .vectPriority n => { vic with vectPriority := vic.vectPriority.set n (v.extractLsb' 0 4) }
  | .address =>
    { vic with
      address := v
      inService :=
        match vic.topService with
        | some l => vic.inService &&& ~~~levelBit l
        | none => vic.inService }

/-- A word read in the VIC's block at byte offset `off`; an offset with no register gives `any value` (R466, D13). -/
def readVic (off : Nat) (st : State) : Access Word :=
  match VicReg.ofOffset off with
  | none => readAny st
  | some r => if st.vicForbids r then .abort st else readVicReg r st

/-- A word write in the VIC's block at byte offset `off` (R466, R478, D13, D24). -/
def writeVic (off : Nat) (v : Word) (st : State) : Access Unit :=
  match VicReg.ofOffset off with
  | none => .stop .undescribedRegister
  | some r => if st.vicForbids r then .abort st else .ok () { st with vic := writeVicReg r v st.vic }

end Sys2Proof.Machine
end

