-- ==== Sys2Proof/Machine/SystemControl.lean ====
section
/-! DEFINITION. The system control block (61_platform_devices.md R547): MAM, MEMMAP, PLL, power, clock, SCS and peripheral
power registers, and the external interrupt registers (60_exceptions.md R485 to R489). -/
namespace Sys2Proof.Machine

/-! ### External interrupt pins -/

/-- Whether pin P2[10+i] has its EINTi function: PINSEL4 bits 21+2i:20+2i are 01 (R485, R621). For P2[11] to P2[13] the
value 01 names an LCD function too, and R611 says that which of them is active depends on the peripheral in use; DESIGN
CHOICE (log entry 39): 01 is EINTi. -/
def State.eintSelected (st : State) (i : Nat) : Bool := (st.pinConn.pinsel[4]).extractLsb' (20 + 2 * i) 2 == 1

/-- `active_i` (R486): the EINTi function is selected and the pin stands at its active level. -/
def State.eintActive (st : State) (i : Nat) : Bool :=
  st.eintSelected i && st.env.pins.getLsbD i == st.ext.extpolar.getLsbD i

/-- The edge selected for EINTi occurred: the pin changed to the level EXTPOLAR names (R486). -/
def State.eintEdge (st : State) (i : Nat) : Bool :=
  st.eintActive i && st.env.pins.getLsbD i != st.env.pinPrev.getLsbD i

/-- Four flags as a vector, bit i being `f i`. -/
def bits4 (f : Nat → Bool) : BitVec 4 :=
  BitVec.ofBool (f 3) ++ BitVec.ofBool (f 2) ++ BitVec.ofBool (f 1) ++ BitVec.ofBool (f 0)

/-- EXTINT after the pins have been looked at: level mode sets a flag while active, edge mode on the edge (R486). -/
def State.extintSensed (st : State) : BitVec 4 :=
  bits4 fun i =>
    st.ext.extint.getLsbD i || (if st.ext.extmode.getLsbD i then st.eintEdge i else st.eintActive i)

/-- EXTINT after a write of `v`: a written 1 clears the flag, except in level mode while the pin is active (R486). -/
def State.extintCleared (st : State) (v : Word) : BitVec 4 :=
  bits4 fun i =>
    st.ext.extint.getLsbD i && !(v.getLsbD i && !(!st.ext.extmode.getLsbD i && st.eintActive i))

/-- EXTINT after EXTMODE or EXTPOLAR changed in the bits `changed`: those flags become free (R488, R489, U61). -/
def State.extintDisturbed (st : State) (changed : BitVec 4) : BitVec 4 :=
  (st.ext.extint &&& ~~~changed) ||| (st.free.extractLsb' 0 4 &&& changed)

/-! ### Registers -/

/-- The registers of the block (R547). -/
inductive SysReg where
  | mamcr | mamtim | memmap | pllcon | pllcfg | pllstat | pllfeed | pcon | pconp | cclkcfg | usbclkcfg | clksrcsel
  | extint | intwake | extmode | extpolar | scs | irctrim | pclksel0 | pclksel1
  deriving DecidableEq, Repr

/-- The register at byte offset `off` from 0xE01FC000 (R547). -/
def SysReg.ofOffset (off : Nat) : Option SysReg :=
  match off with
  | 0x000 => some .mamcr
  | 0x004 => some .mamtim
  | 0x040 => some .memmap
  | 0x080 => some .pllcon
  | 0x084 => some .pllcfg
  | 0x088 => some .pllstat
  | 0x08C => some .pllfeed
  | 0x0C0 => some .pcon
  | 0x0C4 => some .pconp
  | 0x104 => some .cclkcfg
  | 0x108 => some .usbclkcfg
  | 0x10C => some .clksrcsel
  | 0x140 => some .extint
  | 0x144 => some .intwake
  | 0x148 => some .extmode
  | 0x14C => some .extpolar
  | 0x1A0 => some .scs
  | 0x1A4 => some .irctrim
  | 0x1A8 => some .pclksel0
  | 0x1AC => some .pclksel1
  | _ => none

/-- SCS.OSCEN (R548). -/
def SysControl.oscEnabled (s : SysControl) : Bool := s.scs.getLsbD 5

/-- SCS.OSCSTAT (R548): 1 once the oscillator is enabled and its start-up time has passed. -/
def SysControl.oscReady (s : SysControl) : Bool := s.oscEnabled && s.oscWait == 0

/-- PLLSTAT from the effective PLL state (R553). -/
def SysControl.pllstat (s : SysControl) : Word :=
  s.pllCfgEff ||| (s.pllConEff.setWidth 32 <<< 24) ||| ((BitVec.ofBool s.plock).setWidth 32 <<< 26)

/-- The bits of PLLSTAT that a read determines: PLOCK is free while the PLL is locking (R553, U80). -/
def SysControl.pllstatMask (s : SysControl) : Word :=
  if s.pllConEff.getLsbD 0 && s.pllWait != 0 then 0x03FF7FFF else 0x07FF7FFF

/-- The bits of SCS that a read determines: OSCSTAT is free while the oscillator starts (R548, U80). -/
def SysControl.scsMask (s : SysControl) : Word := if s.oscEnabled && s.oscWait != 0 then 0x3B else 0x7B

/-- The read action of a register of the block. Undescribed bits are free (D26 a), except those the spec keeps zero. -/
def readSysReg (r : SysReg) (st : State) : Access Word :=
  match r with
  | .mamcr => readBits 0x3 (st.sys.mamcr.setWidth 32) st
  | .mamtim => readBits 0x7 (st.sys.mamtim.setWidth 32) st
  | .memmap => readBits 0xFFFFFF03 (st.sys.memmap.setWidth 32) st
  | .pllcon => readBits 0x3 (st.sys.pllcon.setWidth 32) st
  | .pllcfg => readBits 0x00FF7FFF st.sys.pllcfg st
  | .pllstat => readBits st.sys.pllstatMask st.sys.pllstat st
  | .pllfeed => readAny st
  | .pcon => readBits 0x9F (st.sys.pcon.setWidth 32) st
  | .pconp => readBits 0xFFF87FFF st.sys.pconp st
  | .cclkcfg => readBits 0xFF (st.sys.cclkcfg.setWidth 32) st
  | .usbclkcfg => readBits 0xF (st.sys.usbclkcfg.setWidth 32) st
  | .clksrcsel => readBits 0xFF (st.sys.clksrcsel.setWidth 32) st
  | .extint => readBits 0xFFFFFF0F (st.ext.extint.setWidth 32) st
  | .intwake => readBits 0xC0FF (st.ext.intwake.setWidth 32) st
  | .extmode => readBits 0xF (st.ext.extmode.setWidth 32) st
  | .extpolar => readBits 0xF (st.ext.extpolar.setWidth 32) st
  | .scs =>
    readBits st.sys.scsMask
      (st.sys.scs.setWidth 32 ||| ((BitVec.ofBool st.sys.oscReady).setWidth 32 <<< 6)) st
  | .irctrim => readBits 0xFF (st.sys.irctrim.setWidth 32) st
  | .pclksel0 => .ok st.sys.pclksel0 st
  | .pclksel1 => .ok st.sys.pclksel1 st

/-- The power mode that PM2, PM1, PM0 of a PCON value select (R492, Table 4.38); none for a reserved combination. -/
def pconMode (v : Word) : Option PowerMode :=
  match v.getLsbD 7, v.getLsbD 1, v.getLsbD 0 with
  | false, false, false => some .normal
  | false, false, true => some .idle
  | true, false, true => some .sleep
  | false, true, false => some .powerDown
  | _, _, _ => none

/-- Writing PCON (R492): the mode is entered when the store completes; power-down switches the PLL off (R557). -/
def writePcon (v : Word) (st : State) : Access Unit :=
  match pconMode v with
  | none => .stop .reservedFieldValue
  | some m =>
    .ok ()
      { st with
        power := m
        sys := { st.sys with
          pcon := v.extractLsb' 0 8 &&& 0x9F
          pllConEff := if m = .powerDown then 0 else st.sys.pllConEff } }

/-- A valid feed (R556): PLLCON and PLLCFG become effective. The PLL starts to lock when it is enabled or its effective
configuration changes; the lock time is free (R553). -/
def feedPll (st : State) : State :=
  let s := st.sys
  let relock := s.pllcon.getLsbD 0 && (!s.pllConEff.getLsbD 0 || s.pllcfg != s.pllCfgEff)
  { st with
    sys := { s with
      pllConEff := s.pllcon
      pllCfgEff := s.pllcfg
      feedArmed := false
      pllWait := if relock then Config.pllLockSteps st.freeIdx else s.pllWait }
    freeIdx := if relock then st.freeIdx + 1 else st.freeIdx }

/-- Writing PLLFEED (R556). -/
def writePllfeed (v : Word) (st : State) : State :=
  if v.extractLsb' 0 8 = 0xAA then { st with sys := { st.sys with feedArmed := true } }
  else if v.extractLsb' 0 8 = 0x55 ∧ st.sys.feedArmed = true then feedPll st
  else { st with sys := { st.sys with feedArmed := false } }

/-- Writing SCS (R548): setting OSCEN starts the oscillator, with a free start-up time. -/
def writeScs (v : Word) (st : State) : State :=
  let start := v.getLsbD 5 && !st.sys.oscEnabled
  { st with
    sys := { st.sys with
      scs := v.extractLsb' 0 8 &&& 0x3B
      oscWait := if start then Config.oscStartSteps st.freeIdx else st.sys.oscWait }
    freeIdx := if start then st.freeIdx + 1 else st.freeIdx }

/-- PCLKSEL0 after a write: the value 01 leaves PCLK_RTC, bits 19:18, as it was (R563). -/
def pclksel0Written (old v : Word) : Word :=
  if v.extractLsb' 18 2 = 1 then (v &&& 0xFFF3FFFF) ||| (old &&& 0x000C0000) else v

/-- The write action of a register of the block; a reserved field value stops the machine (D26 b). -/
def writeSysReg (r : SysReg) (v : Word) (st : State) : Access Unit :=
  match r with
  | .mamcr =>
    if v.extractLsb' 0 2 = 3 then .stop .reservedFieldValue
    else .ok () { st with sys := { st.sys with mamcr := v.extractLsb' 0 2 } }
  | .mamtim =>
    if v.extractLsb' 0 3 = 0 then .stop .reservedFieldValue
    else .ok () { st with sys := { st.sys with mamtim := v.extractLsb' 0 3 } }
  | .memmap =>
    if v.extractLsb' 0 2 = 3 then .stop .reservedFieldValue
    else .ok () { st with sys := { st.sys with memmap := v.extractLsb' 0 2 } }
  | .pllcon => .ok () { st with sys := { st.sys with pllcon := v.extractLsb' 0 2 } }
  | .pllcfg => .ok () { st with sys := { st.sys with pllcfg := v &&& 0x00FF7FFF } }
  | .pllstat => .ok () st
  | .pllfeed => .ok () (writePllfeed v st)
  | .pcon => writePcon v st
  | .pconp => .ok () { st with sys := { st.sys with pconp := v &&& 0xFFF87FFE } }
  | .cclkcfg => .ok () { st with sys := { st.sys with cclkcfg := v.extractLsb' 0 8 } }
  | .usbclkcfg => .ok () { st with sys := { st.sys with usbclkcfg := v.extractLsb' 0 4 } }
  | .clksrcsel =>
    if v.extractLsb' 0 2 = 3 then .stop .reservedFieldValue
    else if v.extractLsb' 0 2 ≠ st.sys.clksrcsel ∧ st.sys.pllConEff.getLsbD 1 = true then
      .stop .clockSwitchWhileConnected
    else .ok () { st with sys := { st.sys with clksrcsel := v.extractLsb' 0 2 } }
  | .extint => .ok () { st with ext := { st.ext with extint := st.extintCleared v } }
  | .intwake => .ok () { st with ext := { st.ext with intwake := v.extractLsb' 0 16 &&& 0xC0FF } }
  | .extmode =>
    .ok ()
      { st with
        ext := { st.ext with
          extmode := v.extractLsb' 0 4
          extint := st.extintDisturbed (st.ext.extmode ^^^ v.extractLsb' 0 4) }
        freeIdx := st.freeIdx + 1 }
  | .extpolar =>
    .ok ()
      { st with
        ext := { st.ext with
          extpolar := v.extractLsb' 0 4
          extint := st.extintDisturbed (st.ext.extpolar ^^^ v.extractLsb' 0 4) }
        freeIdx := st.freeIdx + 1 }
  | .scs => .ok () (writeScs v st)
  | .irctrim => .ok () { st with sys := { st.sys with irctrim := v.extractLsb' 0 8 } }
  | .pclksel0 => .ok () { st with sys := { st.sys with pclksel0 := pclksel0Written st.sys.pclksel0 v } }
  | .pclksel1 => .ok () { st with sys := { st.sys with pclksel1 := v &&& 0x33FFFCFF } }

/-- A word read in the block; an offset with no register gives `any value` (D13). -/
def readSystem (off : Nat) (st : State) : Access Word :=
  match SysReg.ofOffset off with
  | none => readAny st
  | some r => readSysReg r st

/-- A word write in the block; an offset with no register stops the machine (D13). -/
def writeSystem (off : Nat) (v : Word) (st : State) : Access Unit :=
  match SysReg.ofOffset off with
  | none => .stop .undescribedRegister
  | some r => writeSysReg r v st

/-! ### Pin connect block and EMC -/

/-- A word read in the pin connect block (R620): PINSEL0 to PINSEL10 at 0x00, PINMODE0 to PINMODE9 at 0x40. Only bit 3 of
PINSEL10 is described (R622). -/
def readPins (off : Nat) (st : State) : Access Word :=
  if off < 0x28 then .ok (st.pinConn.pinsel[Fin.ofNat 11 (off / 4)]) st
  else if off = 0x28 then readBits 0x8 (st.pinConn.pinsel[10]) st
  else if 0x40 ≤ off ∧ off < 0x68 then .ok (st.pinConn.pinmode[Fin.ofNat 10 ((off - 0x40) / 4)]) st
  else readAny st

/-- A word write in the pin connect block; a reserved function value is stored (R621, D26 b). -/
def writePins (off : Nat) (v : Word) (st : State) : Access Unit :=
  if off < 0x28 then
    .ok () { st with pinConn := { st.pinConn with pinsel := st.pinConn.pinsel.set (Fin.ofNat 11 (off / 4)) v } }
  else if off = 0x28 then
    .ok () { st with pinConn := { st.pinConn with pinsel := st.pinConn.pinsel.set 10 (v &&& 0x8) } }
  else if 0x40 ≤ off ∧ off < 0x68 then
    .ok ()
      { st with pinConn := { st.pinConn with
          pinmode := st.pinConn.pinmode.set (Fin.ofNat 10 ((off - 0x40) / 4)) v } }
  else .stop .undescribedRegister

/-- PCONP.PCEMC (R566): the EMC is powered. -/
def State.emcPowered (st : State) : Bool := st.sys.pconp.getLsbD 11

/-- Where the EMC register at byte offset `off` stands in `State.emc` (R546). -/
def emcIndex (off : Nat) : Option Nat := emcTable.findIdx? fun e => e.1 == off

/-- A word read in the EMC's block (R546, D26 d, e). EMCStatus reads 5 in its low three bits, the rest free (log
entry 12). An offset with no register gives `any value` (R81, D13) whether or not the EMC is powered: D26 d refuses the EMC's
registers and says nothing of the gaps, DESIGN CHOICE (log entry 40). -/
def readEmc (off : Nat) (st : State) : Access Word :=
  match emcIndex off with
  | none => readAny st
  | some k =>
    if !st.emcPowered then .stop .emcUnpowered
    else if off = 4 then readBits 0x7 0x5 st
    else .ok (st.emc[Fin.ofNat 54 k]) st

/-- A word write in the EMC's block (R546, D26 d, e); a write to EMCStatus is ignored, and one to an offset with no register
stops the machine (R81, D13; log entry 40). -/
def writeEmc (off : Nat) (v : Word) (st : State) : Access Unit :=
  match emcIndex off with
  | none => .stop .undescribedRegister
  | some k =>
    if !st.emcPowered then .stop .emcUnpowered
    else if off = 4 then .ok () st
    else .ok () { st with emc := st.emc.set (Fin.ofNat 54 k) v }

end Sys2Proof.Machine
end

