-- ==== Sys2Proof/Machine/Bus.lean ====
section
/-! DEFINITION. The address map (20_memory.md R82 to R96), the remap of the vectors (R88), and the access primitives MemRead,
MemWrite and Fetch (R76 to R78). -/
namespace Sys2Proof.Machine

/-- What stands at an address (R82 to R84, R90 to R95). -/
inductive Region where
  | flash
  | sram
  | otherRam
  | boot
  | external
  | fastGpio
  | apb (slot : Nat)
  | ahb (slot : Nat)
  | vic
  | reserved
  deriving DecidableEq, Repr

/-- The APB slots that hold a peripheral (R84, Table 4.11). -/
def apbPopulated (slot : Nat) : Bool :=
  decide (slot ≤ 18) || slot == 23 || (decide (26 ≤ slot) && decide (slot ≤ 35)) || slot == 127

/-- The region of a physical address (R82 to R84, R90); everything not listed is reserved. The last AHB slot is populated,
since the VIC stands in its last 4 KB (R83): the rest of that slot holds no register and is no reserved address (R85, log
entry 32). -/
def regionOf (a : Nat) : Region :=
  if a < flashSize then .flash
  else if 0x3FFFC000 ≤ a ∧ a < 0x40000000 then .fastGpio
  else if 0x40000000 ≤ a ∧ a < 0x40010000 then .sram
  else if 0x7FD00000 ≤ a ∧ a < 0x7FD04000 then .otherRam
  else if 0x7FE00000 ≤ a ∧ a < 0x7FE04000 then .otherRam
  else if bootBase ≤ a ∧ a < 0x80000000 then .boot
  else if 0x80000000 ≤ a ∧ a < 0x84000000 then
    if extStaticBankPresent ((a - 0x80000000) / 0x1000000) then .external else .reserved
  else if 0xA0000000 ≤ a ∧ a < 0xE0000000 then
    if extDynamicBankPresent ((a - 0xA0000000) / 0x10000000) then .external else .reserved
  else if 0xE0000000 ≤ a ∧ a < 0xE0200000 then
    if apbPopulated ((a - 0xE0000000) / 0x4000) then .apb ((a - 0xE0000000) / 0x4000) else .reserved
  else if 0xFFE00000 ≤ a ∧ a < 0xFFE14000 then .ahb ((a - 0xFFE00000) / 0x4000)
  else if 0xFFFFC000 ≤ a ∧ a < 0xFFFFF000 then .ahb 127
  else if 0xFFFFF000 ≤ a ∧ a < 0x100000000 then .vic
  else .reserved

/-- How a region answers an access. -/
inductive RegionKind where
  | memory | device | unmapped
  deriving DecidableEq, Repr

/-- Memories hold bytes; devices have registers; the rest aborts (R76, R85). -/
def Region.kind : Region → RegionKind
  | .flash => .memory
  | .sram => .memory
  | .otherRam => .memory
  | .boot => .memory
  | .external => .memory
  | .fastGpio => .device
  | .apb _ => .device
  | .ahb _ => .device
  | .vic => .device
  | .reserved => .unmapped

/-- The remap of addresses 0x00 to 0x3F by MEMMAP.MAP (R88): the physical address; none while MAP is the reserved 11. -/
def remap (map : BitVec 2) (a : Word) : Option Nat :=
  if a.toNat < 0x40 then
    match map with
    | 0 => some (bootBase + a.toNat)
    | 1 => some a.toNat
    | 2 => some (0x40000000 + a.toNat)
    | _ => none
  else some a.toNat

/-- The address an access of width `w` at physical address `p` uses (R74): none where it stays misaligned. -/
def alignAddress (w : Width) (p : Nat) : Option Nat :=
  match w with
  | .byte => some p
  | .half => if p % 2 = 0 then some p else none
  | .word =>
    if p % 4 = 0 then some p
    else
      match misalignedPolicy with
      | .refuse => none
      | .arm7tdmi => some (p - p % 4)
  | .swapWord => if p % 4 = 0 then some p else none

/-- Whether the access is one whole aligned word, the only access a device register allows (R75). -/
def wholeWord (w : Width) (p : Nat) : Bool := w.bytes == 4 && p % 4 == 0

/-- Any APB access but a write to PLLFEED breaks a feed sequence (R556, D27). -/
def disarmFeed (p : Nat) (st : State) : State :=
  { st with
    sys := { st.sys with feedArmed := st.sys.feedArmed && !(decide (0xE0000000 ≤ p) && decide (p < 0xE0200000)) } }

/-- PLLFEED's address (R556). -/
def pllfeedAddress : Nat := 0xE01FC08C

/-- An external bank answers only while the EMC is powered (R566, D26 d). -/
def externalUnpowered (r : Region) (st : State) : Bool := r == .external && !st.emcPowered

/-- The read of a device register at physical address `p` (R76 step 4, R81). -/
def readDevice (r : Region) (p : Nat) (st : State) : Access Word :=
  match r with
  | .apb slot =>
    if slot = 11 then readPins (p - 0xE002C000) st
    else if slot = 127 then readSystem (p - 0xE01FC000) st
    else readAny st
  | .ahb slot => if slot = 2 then readEmc (p - 0xFFE08000) st else readAny st
  | .vic => readVic (p - 0xFFFFF000) st
  | _ => readAny st

/-- The write of a device register at physical address `p` (R77 step 4, R81). -/
def writeDevice (r : Region) (p : Nat) (v : Word) (st : State) : Access Unit :=
  match r with
  | .apb slot =>
    if slot = 11 then writePins (p - 0xE002C000) v st
    else if slot = 127 then writeSystem (p - 0xE01FC000) v st
    else .stop .undescribedRegister
  | .ahb slot => if slot = 2 then writeEmc (p - 0xFFE08000) v st else .stop .undescribedRegister
  | .vic => writeVic (p - 0xFFFFF000) v st
  | _ => .stop .undescribedRegister

/-- `MemRead(a, n)` (R76), zero-extended to 32 bits. -/
def memRead (a : Word) (w : Width) (st : State) : Access Word :=
  match remap st.sys.memmap a with
  | none => .stop .memmapReserved
  | some p =>
    match (regionOf p).kind with
    | .unmapped => .abort (disarmFeed p st)
    | .device =>
      if wholeWord w p then readDevice (regionOf p) p (disarmFeed p st) else .stop .partialPeripheralAccess
    | .memory =>
      match alignAddress w p with
      | none => .stop .misaligned
      | some q =>
        if externalUnpowered (regionOf p) st then .stop .emcUnpowered else .ok (st.bytesAt q w.bytes) st

/-- Whether a store at `q` falls into one of the two words fetched after the instruction at `st.pc` (R100, D5). -/
def intoPrefetch (q : Nat) (st : State) : Bool :=
  (remap st.sys.memmap (st.pc + 4)).map (· / 4) == some (q / 4)
    || (remap st.sys.memmap (st.pc + 8)).map (· / 4) == some (q / 4)

/-- A store to a writable memory: on-chip SRAM through its write-back buffer (R92), the others directly. -/
def storeMemory (r : Region) (q : Nat) (w : Width) (v : Word) (st : State) : State :=
  { st with
    mem := if r = .sram then commitPending st.mem st.sramPending else st.mem.store q w.bytes v
    sramPending := if r = .sram then some { addr := q, width := w, value := v } else st.sramPending }

/-- `MemWrite(a, n, v)` (R77). -/
def memWrite (a : Word) (w : Width) (v : Word) (st : State) : Access Unit :=
  match remap st.sys.memmap a with
  | none => .stop .memmapReserved
  | some p =>
    match (regionOf p).kind with
    | .unmapped => .abort (disarmFeed p st)
    | .device =>
      if wholeWord w p then
        writeDevice (regionOf p) p v (if p = pllfeedAddress then st else disarmFeed p st)
      else .stop .partialPeripheralAccess
    | .memory =>
      match alignAddress w p with
      | none => .stop .misaligned
      | some q =>
        if externalUnpowered (regionOf p) st then .stop .emcUnpowered
        else if regionOf p = .flash then .stop .flashStore
        else if regionOf p = .boot then .stop .bootStore
        else if intoPrefetch q st then .stop .storeIntoPrefetch
        else .ok () (storeMemory (regionOf p) q w v st)

/-- `Fetch(pc)` (R78): the word at the PC, or an abort where no memory is (R86, R433). -/
def fetch (st : State) : Access Word :=
  match remap st.sys.memmap st.pc with
  | none => .stop .memmapReserved
  | some p =>
    match (regionOf p).kind with
    | .unmapped => .abort st
    | .device => .abort st
    | .memory =>
      if p % 4 ≠ 0 then .stop .misalignedPc
      else if externalUnpowered (regionOf p) st then .stop .emcUnpowered
      else .ok (st.bytesAt p 4) st

end Sys2Proof.Machine
end

