-- ==== Sys2Proof/Machine/Boundary.lean ====
section
/-! DEFINITION. What happens at an instruction boundary before an instruction runs (00_scope.md R12 step 1): the inputs
are sampled, reset (70_reset_and_hazards.md R630 to R635), waking (60_exceptions.md R492), interrupts (R439, R440). -/
namespace Sys2Proof.Machine

/-- The levels the environment presents at this boundary; with nothing left in the list they stay (log entry 8). -/
def Environment.advance (e : Environment) : Environment :=
  match e.inputs with
  | [] => { e with pinPrev := e.pins }
  | i :: rest => { lines := i.lines, pins := i.pins, pinPrev := e.pins, inputs := rest }

/-- The reset the environment asks for at this boundary. -/
def Environment.resetAsked (e : Environment) : Option ResetCause :=
  match e.inputs with
  | [] => none
  | i :: _ => i.reset

/-- The new levels taken in. -/
def sampleInputs (st : State) : State := { st with env := st.env.advance }

/-- EXTINT set by the pins (R486), and one boundary of the PLL lock and oscillator start-up times passed (R548, R553). -/
def settle (st : State) : State :=
  { st with
    ext := { st.ext with extint := st.extintSensed }
    sys := { st.sys with pllWait := st.sys.pllWait - 1, oscWait := st.sys.oscWait - 1 } }

/-- The state in which the boundary's decisions are made. -/
def atBoundary (st : State) : State := settle (sampleInputs st)

/-- Whether a reset cause resets the chip now: brown-out does only while its detector works and PCON.BORD is 0 (R630,
R492). -/
def resetEffective (cause : ResetCause) (st : State) : Bool :=
  match cause with
  | .external => true
  | .watchdog => true
  | .brownOut => st.bodDetects && !st.sys.pcon.getLsbD 4

/-- MEMMAP.MAP where execution starts (R635, D28). -/
def startMap : BitVec 2 := if bootRomSupplied then 0 else 1

/-- The `k`-th of the free words a reset draws. -/
def State.freeAt (st : State) (k : Nat) : Word := Config.freeWord (st.freeIdx + k)

/-- Reset of the running chip (R631 to R635): every `any value` is free; memory keeps its bytes but the SRAM write-back
buffer is lost (R648); the EMC keeps its registers through a reset other than brown-out while SCS bit 1 is 1 (R632
note 3); no edge is seen (R633). -/
def takeReset (cause : ResetCause) (st : State) : State :=
  { regs := Vector.ofFn fun k => st.freeAt k.val
    pc := 0
    cpsr := (st.freeAt 30).extractLsb' 8 24 ++ 0xD3#8
    spsr := { fiq := st.freeAt 31, irq := st.freeAt 32, svc := st.freeAt 33, abt := st.freeAt 34, und := st.freeAt 35 }
    mem := st.mem
    sramPending := none
    vic := vicReset
    ext := extReset
    sys := sysReset startMap ((st.freeAt 36).extractLsb' 0 8)
    pinConn :=
      { pinsel := (Vector.replicate 11 (0 : Word)).set 10 (st.freeAt 37 &&& 0x8)
        pinmode := Vector.replicate 10 0 }
    emc := if cause ≠ .brownOut ∧ st.sys.scs.getLsbD 1 = true then st.emc else emcReset
    power := .normal
    env := { st.env with pinPrev := st.env.pins }
    userBankLdm := false
    freeIdx := st.freeIdx + 38 }

/-- The wake-up sources of INTWAKE that are active (R487): EINT0 to EINT3, Ethernet, USB, CAN, GPIO, BOD, RTC. EINTi is
active while its EXTINT flag is 1 (DEDUCED, log entry 21), also when PINSEL4 no longer selects EINTi: R487 asks for the mapping
to a pin, R649 lets a flag left set end the mode, and the model follows R649 there (DESIGN CHOICE, log entry 46). -/
def State.wakeSources (st : State) : BitVec 16 :=
  let l := st.blockLines
  (st.ext.extint.setWidth 16)
    ||| ((BitVec.ofBool (l.getLsbD 21)).setWidth 16 <<< 4)
    ||| ((BitVec.ofBool (l.getLsbD 22)).setWidth 16 <<< 5)
    ||| ((BitVec.ofBool (l.getLsbD 23)).setWidth 16 <<< 6)
    ||| ((BitVec.ofBool (l.getLsbD 17)).setWidth 16 <<< 7)
    ||| ((BitVec.ofBool (l.getLsbD 20)).setWidth 16 <<< 14)
    ||| ((BitVec.ofBool (l.getLsbD 13)).setWidth 16 <<< 15)

/-- Whether a halted chip stays halted (R490, R492, D25): idle ends on any enabled interrupt, sleep and power-down on a
source enabled in INTWAKE. -/
def State.staysHalted (st : State) : Bool :=
  match st.power with
  | .normal => false
  | .idle => st.vicIrqStatus == 0 && st.vicFiqStatus == 0
  | .sleep => st.ext.intwake &&& st.wakeSources == 0
  | .powerDown => st.ext.intwake &&& st.wakeSources == 0

/-- On wake-up the PM bits read 0 again (R492). A running chip is not changed. -/
def wakeUp (st : State) : State :=
  match st.power with
  | .normal => st
  | _ => { st with power := .normal, sys := { st.sys with pcon := st.sys.pcon &&& 0x1C } }

/-- The interrupt taken at this boundary: FIQ before IRQ, each if its line is up and not masked (R439, R440). -/
def State.interruptTaken (st : State) : Option Exception :=
  if st.fiqLine && !st.fiqDisabled then some .fiq
  else if st.irqLine && !st.irqDisabled then some .irq
  else none

/-- What a boundary leads to. -/
inductive BoundaryAction where
  /-- The step ends here: reset, still halted, or an interrupt entry. -/
  | done (st : State)
  /-- The next instruction runs in this state. -/
  | run (st : State)
  deriving Repr

/-- What happens once the chip is not halted: an interrupt entry, or the next instruction (R12, R440). -/
def interruptOrRun (st : State) : BoundaryAction :=
  match st.interruptTaken with
  | some e => .done (takeException e st)
  | none => .run st

/-- The boundary without a reset (R492, R440). -/
def boundaryRunning (st : State) : BoundaryAction :=
  if st.staysHalted then .done st else interruptOrRun (wakeUp st)

/-- The whole boundary: reset first, then halting and waking, then interrupts (R439). -/
def boundary (st : State) : BoundaryAction :=
  match st.env.resetAsked with
  | some cause =>
    if resetEffective cause (atBoundary st) then .done (takeReset cause (atBoundary st))
    else boundaryRunning (atBoundary st)
  | none => boundaryRunning (atBoundary st)

end Sys2Proof.Machine
end

