-- ==== Sys2Proof/Machine/DataProc.lean ====
section
/-! DEFINITION. The data-processing instructions (42_data_processing.md R250 to R269). -/
namespace Sys2Proof.Machine

/-- An operation of R254 to R269: operand 1, the shifter operand and the old flags give the result and its flags. -/
abbrev AluOp := Word → Shifted → Flags → AluResult

/-- R266. -/
def aluAnd : AluOp := fun a o f => logicalResult (a &&& o.value) o.carry f
/-- R268. -/
def aluEor : AluOp := fun a o f => logicalResult (a ^^^ o.value) o.carry f
/-- R262. -/
def aluSub : AluOp := fun a o _ => subResult a o.value true
/-- R264. -/
def aluRsb : AluOp := fun a o _ => subResult o.value a true
/-- R260. -/
def aluAdd : AluOp := fun a o _ => addResult a o.value false
/-- R261: the carry added is the C flag before the instruction. -/
def aluAdc : AluOp := fun a o f => addResult a o.value f.c
/-- R263. -/
def aluSbc : AluOp := fun a o f => subResult a o.value f.c
/-- R265. -/
def aluRsc : AluOp := fun a o f => subResult o.value a f.c
/-- R258. -/
def aluTst : AluOp := fun a o f => logicalResult (a &&& o.value) o.carry f
/-- R259. -/
def aluTeq : AluOp := fun a o f => logicalResult (a ^^^ o.value) o.carry f
/-- R256. -/
def aluCmp : AluOp := fun a o _ => subResult a o.value true
/-- R257. -/
def aluCmn : AluOp := fun a o _ => addResult a o.value false
/-- R267. -/
def aluOrr : AluOp := fun a o f => logicalResult (a ||| o.value) o.carry f
/-- R254: operand 1 is not used. -/
def aluMov : AluOp := fun _ o f => logicalResult o.value o.carry f
/-- R269. -/
def aluBic : AluOp := fun a o f => logicalResult (a &&& ~~~o.value) o.carry f
/-- R255: operand 1 is not used. -/
def aluMvn : AluOp := fun _ o f => logicalResult (~~~o.value) o.carry f

/-- The shifter operand with an immediate shift; Rm = R15 reads A + 8 (R184, R185). -/
def shiftImmShifted (op : ShiftImm) (st : State) : Shifted :=
  shiftByField op.kind (st.readReg op.rm) op.amount.toNat st.flags.c

/-- The shifter operand with a register shift: the low byte of Rs is the amount (R184). -/
def shiftRegShifted (op : ShiftReg) (st : State) : Shifted :=
  shiftBy op.kind (st.readReg op.rm) ((st.readReg op.rs).extractLsb' 0 8).toNat st.flags.c

/-- Writing the result (R251, R253): a register, with the flags if S; or the PC, with `CPSR <- SPSR` if S. -/
def writeAlu (s : Bool) (rd : RegNum) (r : AluResult) (st : State) : Result :=
  if rd = 15 then (if s then exceptionReturn r.value st else branchTo r.value st)
  else advance ((if s then st.setFlags r.flags else st).setReg rd r.value)

/-- The common execution of the instructions with a destination (R251). -/
def dataProcess (f : AluOp) (s : Bool) (rn rd : RegNum) (o : Shifted) (st : State) : Result :=
  writeAlu s rd (f (st.readReg rn) o st.flags) st

/-- The common execution of TST, TEQ, CMP, CMN: only the flags change (R250, R251). -/
def compare (f : AluOp) (rn : RegNum) (o : Shifted) (st : State) : Result :=
  advance (st.setFlags (f (st.readReg rn) o st.flags).flags)

/-- AND (R266), operand 2 immediate. -/
def execAndImm (c : Cond) (s : Bool) (rn rd : RegNum) (op : RotImm) (st : State) : Result :=
  conditional c (.andImm c s rn rd op) st fun st => dataProcess aluAnd s rn rd (rotImmShifted op st.flags.c) st

/-- AND (R266), operand 2 register, immediate shift. -/
def execAndShiftImm (c : Cond) (s : Bool) (rn rd : RegNum) (op : ShiftImm) (st : State) : Result :=
  conditional c (.andShiftImm c s rn rd op) st fun st => dataProcess aluAnd s rn rd (shiftImmShifted op st) st

/-- AND (R266), operand 2 register, register shift. -/
def execAndShiftReg (c : Cond) (s : Bool) (rn rd : RegNum) (op : ShiftReg) (st : State) : Result :=
  conditional c (.andShiftReg c s rn rd op) st fun st => dataProcess aluAnd s rn rd (shiftRegShifted op st) st

/-- EOR (R268), operand 2 immediate. -/
def execEorImm (c : Cond) (s : Bool) (rn rd : RegNum) (op : RotImm) (st : State) : Result :=
  conditional c (.eorImm c s rn rd op) st fun st => dataProcess aluEor s rn rd (rotImmShifted op st.flags.c) st

/-- EOR (R268), operand 2 register, immediate shift. -/
def execEorShiftImm (c : Cond) (s : Bool) (rn rd : RegNum) (op : ShiftImm) (st : State) : Result :=
  conditional c (.eorShiftImm c s rn rd op) st fun st => dataProcess aluEor s rn rd (shiftImmShifted op st) st

/-- EOR (R268), operand 2 register, register shift. -/
def execEorShiftReg (c : Cond) (s : Bool) (rn rd : RegNum) (op : ShiftReg) (st : State) : Result :=
  conditional c (.eorShiftReg c s rn rd op) st fun st => dataProcess aluEor s rn rd (shiftRegShifted op st) st

/-- SUB (R262), operand 2 immediate. -/
def execSubImm (c : Cond) (s : Bool) (rn rd : RegNum) (op : RotImm) (st : State) : Result :=
  conditional c (.subImm c s rn rd op) st fun st => dataProcess aluSub s rn rd (rotImmShifted op st.flags.c) st

/-- SUB (R262), operand 2 register, immediate shift. -/
def execSubShiftImm (c : Cond) (s : Bool) (rn rd : RegNum) (op : ShiftImm) (st : State) : Result :=
  conditional c (.subShiftImm c s rn rd op) st fun st => dataProcess aluSub s rn rd (shiftImmShifted op st) st

/-- SUB (R262), operand 2 register, register shift. -/
def execSubShiftReg (c : Cond) (s : Bool) (rn rd : RegNum) (op : ShiftReg) (st : State) : Result :=
  conditional c (.subShiftReg c s rn rd op) st fun st => dataProcess aluSub s rn rd (shiftRegShifted op st) st

/-- RSB (R264), operand 2 immediate. -/
def execRsbImm (c : Cond) (s : Bool) (rn rd : RegNum) (op : RotImm) (st : State) : Result :=
  conditional c (.rsbImm c s rn rd op) st fun st => dataProcess aluRsb s rn rd (rotImmShifted op st.flags.c) st

/-- RSB (R264), operand 2 register, immediate shift. -/
def execRsbShiftImm (c : Cond) (s : Bool) (rn rd : RegNum) (op : ShiftImm) (st : State) : Result :=
  conditional c (.rsbShiftImm c s rn rd op) st fun st => dataProcess aluRsb s rn rd (shiftImmShifted op st) st

/-- RSB (R264), operand 2 register, register shift. -/
def execRsbShiftReg (c : Cond) (s : Bool) (rn rd : RegNum) (op : ShiftReg) (st : State) : Result :=
  conditional c (.rsbShiftReg c s rn rd op) st fun st => dataProcess aluRsb s rn rd (shiftRegShifted op st) st

/-- ADD (R260), operand 2 immediate. -/
def execAddImm (c : Cond) (s : Bool) (rn rd : RegNum) (op : RotImm) (st : State) : Result :=
  conditional c (.addImm c s rn rd op) st fun st => dataProcess aluAdd s rn rd (rotImmShifted op st.flags.c) st

/-- ADD (R260), operand 2 register, immediate shift. -/
def execAddShiftImm (c : Cond) (s : Bool) (rn rd : RegNum) (op : ShiftImm) (st : State) : Result :=
  conditional c (.addShiftImm c s rn rd op) st fun st => dataProcess aluAdd s rn rd (shiftImmShifted op st) st

/-- ADD (R260), operand 2 register, register shift. -/
def execAddShiftReg (c : Cond) (s : Bool) (rn rd : RegNum) (op : ShiftReg) (st : State) : Result :=
  conditional c (.addShiftReg c s rn rd op) st fun st => dataProcess aluAdd s rn rd (shiftRegShifted op st) st

/-- ADC (R261), operand 2 immediate. -/
def execAdcImm (c : Cond) (s : Bool) (rn rd : RegNum) (op : RotImm) (st : State) : Result :=
  conditional c (.adcImm c s rn rd op) st fun st => dataProcess aluAdc s rn rd (rotImmShifted op st.flags.c) st

/-- ADC (R261), operand 2 register, immediate shift. -/
def execAdcShiftImm (c : Cond) (s : Bool) (rn rd : RegNum) (op : ShiftImm) (st : State) : Result :=
  conditional c (.adcShiftImm c s rn rd op) st fun st => dataProcess aluAdc s rn rd (shiftImmShifted op st) st

/-- ADC (R261), operand 2 register, register shift. -/
def execAdcShiftReg (c : Cond) (s : Bool) (rn rd : RegNum) (op : ShiftReg) (st : State) : Result :=
  conditional c (.adcShiftReg c s rn rd op) st fun st => dataProcess aluAdc s rn rd (shiftRegShifted op st) st

/-- SBC (R263), operand 2 immediate. -/
def execSbcImm (c : Cond) (s : Bool) (rn rd : RegNum) (op : RotImm) (st : State) : Result :=
  conditional c (.sbcImm c s rn rd op) st fun st => dataProcess aluSbc s rn rd (rotImmShifted op st.flags.c) st

/-- SBC (R263), operand 2 register, immediate shift. -/
def execSbcShiftImm (c : Cond) (s : Bool) (rn rd : RegNum) (op : ShiftImm) (st : State) : Result :=
  conditional c (.sbcShiftImm c s rn rd op) st fun st => dataProcess aluSbc s rn rd (shiftImmShifted op st) st

/-- SBC (R263), operand 2 register, register shift. -/
def execSbcShiftReg (c : Cond) (s : Bool) (rn rd : RegNum) (op : ShiftReg) (st : State) : Result :=
  conditional c (.sbcShiftReg c s rn rd op) st fun st => dataProcess aluSbc s rn rd (shiftRegShifted op st) st

/-- RSC (R265), operand 2 immediate. -/
def execRscImm (c : Cond) (s : Bool) (rn rd : RegNum) (op : RotImm) (st : State) : Result :=
  conditional c (.rscImm c s rn rd op) st fun st => dataProcess aluRsc s rn rd (rotImmShifted op st.flags.c) st

/-- RSC (R265), operand 2 register, immediate shift. -/
def execRscShiftImm (c : Cond) (s : Bool) (rn rd : RegNum) (op : ShiftImm) (st : State) : Result :=
  conditional c (.rscShiftImm c s rn rd op) st fun st => dataProcess aluRsc s rn rd (shiftImmShifted op st) st

/-- RSC (R265), operand 2 register, register shift. -/
def execRscShiftReg (c : Cond) (s : Bool) (rn rd : RegNum) (op : ShiftReg) (st : State) : Result :=
  conditional c (.rscShiftReg c s rn rd op) st fun st => dataProcess aluRsc s rn rd (shiftRegShifted op st) st

/-- TST (R258), operand 2 immediate. -/
def execTstImm (c : Cond) (rn : RegNum) (op : RotImm) (st : State) : Result :=
  conditional c (.tstImm c rn op) st fun st => compare aluTst rn (rotImmShifted op st.flags.c) st

/-- TST (R258), operand 2 register, immediate shift. -/
def execTstShiftImm (c : Cond) (rn : RegNum) (op : ShiftImm) (st : State) : Result :=
  conditional c (.tstShiftImm c rn op) st fun st => compare aluTst rn (shiftImmShifted op st) st

/-- TST (R258), operand 2 register, register shift. -/
def execTstShiftReg (c : Cond) (rn : RegNum) (op : ShiftReg) (st : State) : Result :=
  conditional c (.tstShiftReg c rn op) st fun st => compare aluTst rn (shiftRegShifted op st) st

/-- TEQ (R259), operand 2 immediate. -/
def execTeqImm (c : Cond) (rn : RegNum) (op : RotImm) (st : State) : Result :=
  conditional c (.teqImm c rn op) st fun st => compare aluTeq rn (rotImmShifted op st.flags.c) st

/-- TEQ (R259), operand 2 register, immediate shift. -/
def execTeqShiftImm (c : Cond) (rn : RegNum) (op : ShiftImm) (st : State) : Result :=
  conditional c (.teqShiftImm c rn op) st fun st => compare aluTeq rn (shiftImmShifted op st) st

/-- TEQ (R259), operand 2 register, register shift. -/
def execTeqShiftReg (c : Cond) (rn : RegNum) (op : ShiftReg) (st : State) : Result :=
  conditional c (.teqShiftReg c rn op) st fun st => compare aluTeq rn (shiftRegShifted op st) st

/-- CMP (R256), operand 2 immediate. -/
def execCmpImm (c : Cond) (rn : RegNum) (op : RotImm) (st : State) : Result :=
  conditional c (.cmpImm c rn op) st fun st => compare aluCmp rn (rotImmShifted op st.flags.c) st

/-- CMP (R256), operand 2 register, immediate shift. -/
def execCmpShiftImm (c : Cond) (rn : RegNum) (op : ShiftImm) (st : State) : Result :=
  conditional c (.cmpShiftImm c rn op) st fun st => compare aluCmp rn (shiftImmShifted op st) st

/-- CMP (R256), operand 2 register, register shift. -/
def execCmpShiftReg (c : Cond) (rn : RegNum) (op : ShiftReg) (st : State) : Result :=
  conditional c (.cmpShiftReg c rn op) st fun st => compare aluCmp rn (shiftRegShifted op st) st

/-- CMN (R257), operand 2 immediate. -/
def execCmnImm (c : Cond) (rn : RegNum) (op : RotImm) (st : State) : Result :=
  conditional c (.cmnImm c rn op) st fun st => compare aluCmn rn (rotImmShifted op st.flags.c) st

/-- CMN (R257), operand 2 register, immediate shift. -/
def execCmnShiftImm (c : Cond) (rn : RegNum) (op : ShiftImm) (st : State) : Result :=
  conditional c (.cmnShiftImm c rn op) st fun st => compare aluCmn rn (shiftImmShifted op st) st

/-- CMN (R257), operand 2 register, register shift. -/
def execCmnShiftReg (c : Cond) (rn : RegNum) (op : ShiftReg) (st : State) : Result :=
  conditional c (.cmnShiftReg c rn op) st fun st => compare aluCmn rn (shiftRegShifted op st) st

/-- ORR (R267), operand 2 immediate. -/
def execOrrImm (c : Cond) (s : Bool) (rn rd : RegNum) (op : RotImm) (st : State) : Result :=
  conditional c (.orrImm c s rn rd op) st fun st => dataProcess aluOrr s rn rd (rotImmShifted op st.flags.c) st

/-- ORR (R267), operand 2 register, immediate shift. -/
def execOrrShiftImm (c : Cond) (s : Bool) (rn rd : RegNum) (op : ShiftImm) (st : State) : Result :=
  conditional c (.orrShiftImm c s rn rd op) st fun st => dataProcess aluOrr s rn rd (shiftImmShifted op st) st

/-- ORR (R267), operand 2 register, register shift. -/
def execOrrShiftReg (c : Cond) (s : Bool) (rn rd : RegNum) (op : ShiftReg) (st : State) : Result :=
  conditional c (.orrShiftReg c s rn rd op) st fun st => dataProcess aluOrr s rn rd (shiftRegShifted op st) st

/-- MOV (R254), operand 2 immediate. -/
def execMovImm (c : Cond) (s : Bool) (rd : RegNum) (op : RotImm) (st : State) : Result :=
  conditional c (.movImm c s rd op) st fun st => dataProcess aluMov s 0 rd (rotImmShifted op st.flags.c) st

/-- MOV (R254), operand 2 register, immediate shift. -/
def execMovShiftImm (c : Cond) (s : Bool) (rd : RegNum) (op : ShiftImm) (st : State) : Result :=
  conditional c (.movShiftImm c s rd op) st fun st => dataProcess aluMov s 0 rd (shiftImmShifted op st) st

/-- MOV (R254), operand 2 register, register shift. -/
def execMovShiftReg (c : Cond) (s : Bool) (rd : RegNum) (op : ShiftReg) (st : State) : Result :=
  conditional c (.movShiftReg c s rd op) st fun st => dataProcess aluMov s 0 rd (shiftRegShifted op st) st

/-- BIC (R269), operand 2 immediate. -/
def execBicImm (c : Cond) (s : Bool) (rn rd : RegNum) (op : RotImm) (st : State) : Result :=
  conditional c (.bicImm c s rn rd op) st fun st => dataProcess aluBic s rn rd (rotImmShifted op st.flags.c) st

/-- BIC (R269), operand 2 register, immediate shift. -/
def execBicShiftImm (c : Cond) (s : Bool) (rn rd : RegNum) (op : ShiftImm) (st : State) : Result :=
  conditional c (.bicShiftImm c s rn rd op) st fun st => dataProcess aluBic s rn rd (shiftImmShifted op st) st

/-- BIC (R269), operand 2 register, register shift. -/
def execBicShiftReg (c : Cond) (s : Bool) (rn rd : RegNum) (op : ShiftReg) (st : State) : Result :=
  conditional c (.bicShiftReg c s rn rd op) st fun st => dataProcess aluBic s rn rd (shiftRegShifted op st) st

/-- MVN (R255), operand 2 immediate. -/
def execMvnImm (c : Cond) (s : Bool) (rd : RegNum) (op : RotImm) (st : State) : Result :=
  conditional c (.mvnImm c s rd op) st fun st => dataProcess aluMvn s 0 rd (rotImmShifted op st.flags.c) st

/-- MVN (R255), operand 2 register, immediate shift. -/
def execMvnShiftImm (c : Cond) (s : Bool) (rd : RegNum) (op : ShiftImm) (st : State) : Result :=
  conditional c (.mvnShiftImm c s rd op) st fun st => dataProcess aluMvn s 0 rd (shiftImmShifted op st) st

/-- MVN (R255), operand 2 register, register shift. -/
def execMvnShiftReg (c : Cond) (s : Bool) (rd : RegNum) (op : ShiftReg) (st : State) : Result :=
  conditional c (.mvnShiftReg c s rd op) st fun st => dataProcess aluMvn s 0 rd (shiftRegShifted op st) st

end Sys2Proof.Machine
end

