-- ==== Sys2Proof/Machine/LoadStore.lean ====
section
/-! DEFINITION. The single-register transfers and the swaps (41_load_store.md R200 to R211, R226, R227). -/
namespace Sys2Proof.Machine

/-- What an addressing mode yields (R201): the transfer address and the base to write back, if any. -/
structure Address where
  addr : Word
  wb : Option Word
  deriving DecidableEq, Repr

/-- Base plus or minus offset (R201). -/
def offsetSum (u : Bool) (base offset : Word) : Word := if u then base + offset else base - offset

/-- P = 1: the offset is applied before the transfer; `w` is the ! form (R201). -/
def preIndexed (u w : Bool) (base offset : Word) : Address :=
  { addr := offsetSum u base offset, wb := if w then some (offsetSum u base offset) else none }

/-- P = 0: the base is the address and is then updated (R201). -/
def postIndexed (u : Bool) (base offset : Word) : Address := { addr := base, wb := some (offsetSum u base offset) }

/-- The immediate offset of a word or byte transfer (R201). -/
def offset12 (imm : BitVec 12) : Word := imm.setWidth 32

/-- The immediate offset of a halfword or signed transfer (R202). -/
def offset8 (imm : BitVec 8) : Word := imm.setWidth 32

/-- The register offset of a word or byte transfer: shifted, the carry-out discarded (R201). -/
def offsetReg (off : ShiftImm) (st : State) : Word := (shiftImmShifted off st).value

/-- Base write-back, if any (R211). -/
def writeBase (rn : RegNum) (wb : Option Word) (st : State) : State :=
  match wb with
  | some v => st.setReg rn v
  | none => st

/-- Data Abort (R434); with write-back the base is a free choice of the old and the written-back value (R211, D21). -/
def abortTransfer (rn : RegNum) (wb : Option Word) (st : State) : Result :=
  match wb with
  | none => .next (takeException .dataAbort st)
  | some v =>
    if st.free.getLsbD 0 then .next (takeException .dataAbort (st.drawn.setReg rn v))
    else .next (takeException .dataAbort st.drawn)

/-- The loaded value to its destination: a register, or the PC as a branch (R203). -/
def writeLoaded (rd : RegNum) (v : Word) (st : State) : Result :=
  if rd = 15 then branchTo v st else advance (st.setReg rd v)

/-- A load (R203 to R211): access, then base write-back, then the destination. `ext` extends what was read. -/
def loadTransfer (w : Width) (ext : Word → Word) (rn rd : RegNum) (m : Address) (st : State) : Result :=
  match memRead m.addr w st with
  | .stop f => .fault f
  | .abort st => abortTransfer rn m.wb st
  | .ok v st => writeLoaded rd (ext v) (writeBase rn m.wb st)

/-- A store (R204 to R211): access, then base write-back. -/
def storeTransfer (w : Width) (rn : RegNum) (v : Word) (m : Address) (st : State) : Result :=
  match memWrite m.addr w v st with
  | .stop f => .fault f
  | .abort st => abortTransfer rn m.wb st
  | .ok _ st => advance (writeBase rn m.wb st)

/-- What LDR makes of the word read: rotated right by 8 times the low address bits, so unchanged when aligned (R74). -/
def rotateLoaded (addr : Word) (v : Word) : Word := v.rotateRight (8 * (addr.extractLsb' 0 2).toNat)

/-- `sext_8` of a zero-extended byte (R209). -/
def signExtend8 (v : Word) : Word := (v.extractLsb' 0 8).signExtend 32

/-- `sext_16` of a zero-extended halfword (R210). -/
def signExtend16 (v : Word) : Word := (v.extractLsb' 0 16).signExtend 32

/-- A word load (R203, R74). -/
def loadWord (rn rd : RegNum) (m : Address) (st : State) : Result :=
  loadTransfer .word (rotateLoaded m.addr) rn rd m st

/-- A zero-extending byte load (R205). -/
def loadByte (rn rd : RegNum) (m : Address) (st : State) : Result := loadTransfer .byte id rn rd m st

/-- A zero-extending halfword load (R207). -/
def loadHalf (rn rd : RegNum) (m : Address) (st : State) : Result := loadTransfer .half id rn rd m st

/-- A sign-extending byte load (R209). -/
def loadSignedByte (rn rd : RegNum) (m : Address) (st : State) : Result := loadTransfer .byte signExtend8 rn rd m st

/-- A sign-extending halfword load (R210). -/
def loadSignedHalf (rn rd : RegNum) (m : Address) (st : State) : Result := loadTransfer .half signExtend16 rn rd m st

/-- A word store; Rd = R15 stores A + PC_STORE_OFFSET (R204, R30). -/
def storeWord (rn rd : RegNum) (m : Address) (st : State) : Result :=
  storeTransfer .word rn (st.storeReg rd) m st

/-- A byte store of the low byte of Rd (R206). -/
def storeByte (rn rd : RegNum) (m : Address) (st : State) : Result :=
  storeTransfer .byte rn (st.storeReg rd) m st

/-- A halfword store of the low halfword of Rd (R208). -/
def storeHalf (rn rd : RegNum) (m : Address) (st : State) : Result :=
  storeTransfer .half rn (st.storeReg rd) m st

/-- LDRH (R207), immediate offset, offset or pre-indexed. -/
def execLdrhImmPre (c : Cond) (u w : Bool) (rn rd : RegNum) (imm : BitVec 8) (st : State) : Result :=
  conditional c (.ldrhImmPre c u w rn rd imm) st fun st =>
    loadHalf rn rd (preIndexed u w (st.readReg rn) (offset8 imm)) st

/-- LDRH (R207), immediate offset, post-indexed. -/
def execLdrhImmPost (c : Cond) (u : Bool) (rn rd : RegNum) (imm : BitVec 8) (st : State) : Result :=
  conditional c (.ldrhImmPost c u rn rd imm) st fun st =>
    loadHalf rn rd (postIndexed u (st.readReg rn) (offset8 imm)) st

/-- LDRH (R207), register offset, offset or pre-indexed. -/
def execLdrhRegPre (c : Cond) (u w : Bool) (rn rd rm : RegNum) (st : State) : Result :=
  conditional c (.ldrhRegPre c u w rn rd rm) st fun st =>
    loadHalf rn rd (preIndexed u w (st.readReg rn) (st.readReg rm)) st

/-- LDRH (R207), register offset, post-indexed. -/
def execLdrhRegPost (c : Cond) (u : Bool) (rn rd rm : RegNum) (st : State) : Result :=
  conditional c (.ldrhRegPost c u rn rd rm) st fun st =>
    loadHalf rn rd (postIndexed u (st.readReg rn) (st.readReg rm)) st

/-- STRH (R208), immediate offset, offset or pre-indexed. -/
def execStrhImmPre (c : Cond) (u w : Bool) (rn rd : RegNum) (imm : BitVec 8) (st : State) : Result :=
  conditional c (.strhImmPre c u w rn rd imm) st fun st =>
    storeHalf rn rd (preIndexed u w (st.readReg rn) (offset8 imm)) st

/-- STRH (R208), immediate offset, post-indexed. -/
def execStrhImmPost (c : Cond) (u : Bool) (rn rd : RegNum) (imm : BitVec 8) (st : State) : Result :=
  conditional c (.strhImmPost c u rn rd imm) st fun st =>
    storeHalf rn rd (postIndexed u (st.readReg rn) (offset8 imm)) st

/-- STRH (R208), register offset, offset or pre-indexed. -/
def execStrhRegPre (c : Cond) (u w : Bool) (rn rd rm : RegNum) (st : State) : Result :=
  conditional c (.strhRegPre c u w rn rd rm) st fun st =>
    storeHalf rn rd (preIndexed u w (st.readReg rn) (st.readReg rm)) st

/-- STRH (R208), register offset, post-indexed. -/
def execStrhRegPost (c : Cond) (u : Bool) (rn rd rm : RegNum) (st : State) : Result :=
  conditional c (.strhRegPost c u rn rd rm) st fun st =>
    storeHalf rn rd (postIndexed u (st.readReg rn) (st.readReg rm)) st

/-- LDRSB (R209), immediate offset, offset or pre-indexed. -/
def execLdrsbImmPre (c : Cond) (u w : Bool) (rn rd : RegNum) (imm : BitVec 8) (st : State) : Result :=
  conditional c (.ldrsbImmPre c u w rn rd imm) st fun st =>
    loadSignedByte rn rd (preIndexed u w (st.readReg rn) (offset8 imm)) st

/-- LDRSB (R209), immediate offset, post-indexed. -/
def execLdrsbImmPost (c : Cond) (u : Bool) (rn rd : RegNum) (imm : BitVec 8) (st : State) : Result :=
  conditional c (.ldrsbImmPost c u rn rd imm) st fun st =>
    loadSignedByte rn rd (postIndexed u (st.readReg rn) (offset8 imm)) st

/-- LDRSB (R209), register offset, offset or pre-indexed. -/
def execLdrsbRegPre (c : Cond) (u w : Bool) (rn rd rm : RegNum) (st : State) : Result :=
  conditional c (.ldrsbRegPre c u w rn rd rm) st fun st =>
    loadSignedByte rn rd (preIndexed u w (st.readReg rn) (st.readReg rm)) st

/-- LDRSB (R209), register offset, post-indexed. -/
def execLdrsbRegPost (c : Cond) (u : Bool) (rn rd rm : RegNum) (st : State) : Result :=
  conditional c (.ldrsbRegPost c u rn rd rm) st fun st =>
    loadSignedByte rn rd (postIndexed u (st.readReg rn) (st.readReg rm)) st

/-- LDRSH (R210), immediate offset, offset or pre-indexed. -/
def execLdrshImmPre (c : Cond) (u w : Bool) (rn rd : RegNum) (imm : BitVec 8) (st : State) : Result :=
  conditional c (.ldrshImmPre c u w rn rd imm) st fun st =>
    loadSignedHalf rn rd (preIndexed u w (st.readReg rn) (offset8 imm)) st

/-- LDRSH (R210), immediate offset, post-indexed. -/
def execLdrshImmPost (c : Cond) (u : Bool) (rn rd : RegNum) (imm : BitVec 8) (st : State) : Result :=
  conditional c (.ldrshImmPost c u rn rd imm) st fun st =>
    loadSignedHalf rn rd (postIndexed u (st.readReg rn) (offset8 imm)) st

/-- LDRSH (R210), register offset, offset or pre-indexed. -/
def execLdrshRegPre (c : Cond) (u w : Bool) (rn rd rm : RegNum) (st : State) : Result :=
  conditional c (.ldrshRegPre c u w rn rd rm) st fun st =>
    loadSignedHalf rn rd (preIndexed u w (st.readReg rn) (st.readReg rm)) st

/-- LDRSH (R210), register offset, post-indexed. -/
def execLdrshRegPost (c : Cond) (u : Bool) (rn rd rm : RegNum) (st : State) : Result :=
  conditional c (.ldrshRegPost c u rn rd rm) st fun st =>
    loadSignedHalf rn rd (postIndexed u (st.readReg rn) (st.readReg rm)) st

/-- LDR (R203), immediate offset, offset or pre-indexed. -/
def execLdrImmPre (c : Cond) (u w : Bool) (rn rd : RegNum) (imm : BitVec 12) (st : State) : Result :=
  conditional c (.ldrImmPre c u w rn rd imm) st fun st =>
    loadWord rn rd (preIndexed u w (st.readReg rn) (offset12 imm)) st

/-- LDR (R203), immediate offset, post-indexed. -/
def execLdrImmPost (c : Cond) (u : Bool) (rn rd : RegNum) (imm : BitVec 12) (st : State) : Result :=
  conditional c (.ldrImmPost c u rn rd imm) st fun st =>
    loadWord rn rd (postIndexed u (st.readReg rn) (offset12 imm)) st

/-- LDR (R203), register offset, offset or pre-indexed. -/
def execLdrRegPre (c : Cond) (u w : Bool) (rn rd : RegNum) (off : ShiftImm) (st : State) : Result :=
  conditional c (.ldrRegPre c u w rn rd off) st fun st =>
    loadWord rn rd (preIndexed u w (st.readReg rn) (offsetReg off st)) st

/-- LDR (R203), register offset, post-indexed. -/
def execLdrRegPost (c : Cond) (u : Bool) (rn rd : RegNum) (off : ShiftImm) (st : State) : Result :=
  conditional c (.ldrRegPost c u rn rd off) st fun st =>
    loadWord rn rd (postIndexed u (st.readReg rn) (offsetReg off st)) st

/-- STR (R204), immediate offset, offset or pre-indexed. -/
def execStrImmPre (c : Cond) (u w : Bool) (rn rd : RegNum) (imm : BitVec 12) (st : State) : Result :=
  conditional c (.strImmPre c u w rn rd imm) st fun st =>
    storeWord rn rd (preIndexed u w (st.readReg rn) (offset12 imm)) st

/-- STR (R204), immediate offset, post-indexed. -/
def execStrImmPost (c : Cond) (u : Bool) (rn rd : RegNum) (imm : BitVec 12) (st : State) : Result :=
  conditional c (.strImmPost c u rn rd imm) st fun st =>
    storeWord rn rd (postIndexed u (st.readReg rn) (offset12 imm)) st

/-- STR (R204), register offset, offset or pre-indexed. -/
def execStrRegPre (c : Cond) (u w : Bool) (rn rd : RegNum) (off : ShiftImm) (st : State) : Result :=
  conditional c (.strRegPre c u w rn rd off) st fun st =>
    storeWord rn rd (preIndexed u w (st.readReg rn) (offsetReg off st)) st

/-- STR (R204), register offset, post-indexed. -/
def execStrRegPost (c : Cond) (u : Bool) (rn rd : RegNum) (off : ShiftImm) (st : State) : Result :=
  conditional c (.strRegPost c u rn rd off) st fun st =>
    storeWord rn rd (postIndexed u (st.readReg rn) (offsetReg off st)) st

/-- LDRB (R205), immediate offset, offset or pre-indexed. -/
def execLdrbImmPre (c : Cond) (u w : Bool) (rn rd : RegNum) (imm : BitVec 12) (st : State) : Result :=
  conditional c (.ldrbImmPre c u w rn rd imm) st fun st =>
    loadByte rn rd (preIndexed u w (st.readReg rn) (offset12 imm)) st

/-- LDRB (R205), immediate offset, post-indexed. -/
def execLdrbImmPost (c : Cond) (u : Bool) (rn rd : RegNum) (imm : BitVec 12) (st : State) : Result :=
  conditional c (.ldrbImmPost c u rn rd imm) st fun st =>
    loadByte rn rd (postIndexed u (st.readReg rn) (offset12 imm)) st

/-- LDRB (R205), register offset, offset or pre-indexed. -/
def execLdrbRegPre (c : Cond) (u w : Bool) (rn rd : RegNum) (off : ShiftImm) (st : State) : Result :=
  conditional c (.ldrbRegPre c u w rn rd off) st fun st =>
    loadByte rn rd (preIndexed u w (st.readReg rn) (offsetReg off st)) st

/-- LDRB (R205), register offset, post-indexed. -/
def execLdrbRegPost (c : Cond) (u : Bool) (rn rd : RegNum) (off : ShiftImm) (st : State) : Result :=
  conditional c (.ldrbRegPost c u rn rd off) st fun st =>
    loadByte rn rd (postIndexed u (st.readReg rn) (offsetReg off st)) st

/-- STRB (R206), immediate offset, offset or pre-indexed. -/
def execStrbImmPre (c : Cond) (u w : Bool) (rn rd : RegNum) (imm : BitVec 12) (st : State) : Result :=
  conditional c (.strbImmPre c u w rn rd imm) st fun st =>
    storeByte rn rd (preIndexed u w (st.readReg rn) (offset12 imm)) st

/-- STRB (R206), immediate offset, post-indexed. -/
def execStrbImmPost (c : Cond) (u : Bool) (rn rd : RegNum) (imm : BitVec 12) (st : State) : Result :=
  conditional c (.strbImmPost c u rn rd imm) st fun st =>
    storeByte rn rd (postIndexed u (st.readReg rn) (offset12 imm)) st

/-- STRB (R206), register offset, offset or pre-indexed. -/
def execStrbRegPre (c : Cond) (u w : Bool) (rn rd : RegNum) (off : ShiftImm) (st : State) : Result :=
  conditional c (.strbRegPre c u w rn rd off) st fun st =>
    storeByte rn rd (preIndexed u w (st.readReg rn) (offsetReg off st)) st

/-- STRB (R206), register offset, post-indexed. -/
def execStrbRegPost (c : Cond) (u : Bool) (rn rd : RegNum) (off : ShiftImm) (st : State) : Result :=
  conditional c (.strbRegPost c u rn rd off) st fun st =>
    storeByte rn rd (postIndexed u (st.readReg rn) (offsetReg off st)) st

/-- The swap (R226): read, then write, then the destination; the two accesses are indivisible (R99). -/
def swapTransfer (w : Width) (rn rd rm : RegNum) (st : State) : Result :=
  match memRead (st.readReg rn) w st with
  | .stop f => .fault f
  | .abort st1 => .next (takeException .dataAbort st1)
  | .ok t st1 =>
    match memWrite (st.readReg rn) w (st.readReg rm) st1 with
    | .stop f => .fault f
    | .abort st2 => .next (takeException .dataAbort st2)
    | .ok _ st2 => advance (st2.setReg rd t)

/-- SWP (R226). -/
def execSwp (c : Cond) (rn rd rm : RegNum) (st : State) : Result :=
  conditional c (.swp c rn rd rm) st fun st => swapTransfer .swapWord rn rd rm st

/-- SWPB (R227). -/
def execSwpb (c : Cond) (rn rd rm : RegNum) (st : State) : Result :=
  conditional c (.swpb c rn rd rm) st fun st => swapTransfer .byte rn rd rm st

end Sys2Proof.Machine
end

