-- ==== Sys2Proof/Machine/Block.lean ====
section
/-! DEFINITION. The multiple-register transfers (41_load_store.md R220 to R224). -/
namespace Sys2Proof.Machine

/-- The registers below R15 in a list, in order of number (R221). -/
def blockRegs (list : BitVec 16) : List RegNum :=
  ((List.range 15).filter fun k => list.getLsbD k).map fun k => BitVec.ofNat 4 k

/-- The number of registers in a list (R221). -/
def blockCount (list : BitVec 16) : Nat := ((List.range 16).filter fun k => list.getLsbD k).length

/-- The first address of the sequence (R221). -/
def blockStart (p u : Bool) (base : Word) (n : Nat) : Word :=
  let bytes := BitVec.ofNat 32 (4 * n)
  match p, u with
  | false, true => base
  | true, true => base + 4
  | false, false => base - bytes + 4
  | true, false => base - bytes

/-- The value written back (R221). -/
def blockEnd (u : Bool) (base : Word) (n : Nat) : Word :=
  if u then base + BitVec.ofNat 32 (4 * n) else base - BitVec.ofNat 32 (4 * n)

/-- Whether the `n` words from `start` run past 0xFFFFFFFF (R103). -/
def blockWraps (start : Word) (n : Nat) : Bool := decide (2 ^ 32 < start.toNat - start.toNat % 4 + 4 * n)

/-- Load registers from ascending addresses, into the User bank if `user` (R222, R223); answers the next address. -/
def loadRegs (user : Bool) : List RegNum → Word → State → Access Word
  | [], a, st => .ok a st
  | r :: rest, a, st =>
    match memRead a .word st with
    | .stop f => .stop f
    | .abort st => .abort st
    | .ok v st => loadRegs user rest (a + 4) (if user then st.setRegIn .user r v else st.setReg r v)

/-- Store registers to ascending addresses, from the User bank if `user` (R224); answers the next address. -/
def storeRegs (user : Bool) : List RegNum → Word → State → Access Word
  | [], a, st => .ok a st
  | r :: rest, a, st =>
    match memWrite a .word (if user then st.regIn .user r else st.reg r) st with
    | .stop f => .stop f
    | .abort st => .abort st
    | .ok _ st => storeRegs user rest (a + 4) st

/-- The end of an LDM once R0 to R14 are loaded, `a` the next address (R222): R15 last, the base written back before the
CPSR copy, and without R15 only the advance (R652: a User-bank load leaves its mark). -/
def finishLdm (s : Bool) (rn : RegNum) (wb : Option Word) (list : BitVec 16) (a : Word) (st : State) : Result :=
  if list.getLsbD 15 then
    match memRead a .word st with
    | .stop f => .fault f
    | .abort st => abortTransfer rn wb st
    | .ok v st => if s then exceptionReturn v (writeBase rn wb st) else branchTo v (writeBase rn wb st)
  else advance { writeBase rn wb st with userBankLdm := s }

/-- LDM on base value `base` (R222, R223). -/
def loadBlock (p u s w : Bool) (rn : RegNum) (list : BitVec 16) (base : Word) (st : State) : Result :=
  let n := blockCount list
  let wb := if w then some (blockEnd u base n) else none
  if s && st.currentSpsr.isNone then .fault .noSpsr
  else if blockWraps (blockStart p u base n) n then .fault .addressWrap
  else
    match loadRegs (s && !list.getLsbD 15) (blockRegs list) (blockStart p u base n) st with
    | .stop f => .fault f
    | .abort st => abortTransfer rn wb st
    | .ok a st => finishLdm s rn wb list a st

/-- The end of an STM once R0 to R14 are stored (R224): R15 as A + PC_STORE_OFFSET, then the base. -/
def finishStm (rn : RegNum) (wb : Option Word) (list : BitVec 16) (a : Word) (st : State) : Result :=
  if list.getLsbD 15 then
    match memWrite a .word (st.storeReg 15) st with
    | .stop f => .fault f
    | .abort st => abortTransfer rn wb st
    | .ok _ st => advance (writeBase rn wb st)
  else advance (writeBase rn wb st)

/-- STM on base value `base` (R224). -/
def storeBlock (p u s w : Bool) (rn : RegNum) (list : BitVec 16) (base : Word) (st : State) : Result :=
  let n := blockCount list
  let wb := if w then some (blockEnd u base n) else none
  if s && st.currentSpsr.isNone then .fault .noSpsr
  else if blockWraps (blockStart p u base n) n then .fault .addressWrap
  else
    match storeRegs s (blockRegs list) (blockStart p u base n) st with
    | .stop f => .fault f
    | .abort st => abortTransfer rn wb st
    | .ok a st => finishStm rn wb list a st

/-- LDM (R222). -/
def execLdm (c : Cond) (p u s w : Bool) (rn : RegNum) (list : BitVec 16) (st : State) : Result :=
  conditional c (.ldm c p u s w rn list) st fun st => loadBlock p u s w rn list (st.readReg rn) st

/-- STM (R224). -/
def execStm (c : Cond) (p u s w : Bool) (rn : RegNum) (list : BitVec 16) (st : State) : Result :=
  conditional c (.stm c p u s w rn list) st fun st => storeBlock p u s w rn list (st.readReg rn) st

end Sys2Proof.Machine
end

