-- ==== Sys2Proof/Machine/Branch.lean ====
section
/-! DEFINITION. The branch instructions (44_branch.md R310 to R317). -/
namespace Sys2Proof.Machine

/-- The target of B and BL at address `a` (R311). -/
def branchTarget (a : Word) (imm : BitVec 24) : Word := a + 8 + (imm.signExtend 32 <<< 2)

/-- `R[14] <- A + 4` (R313). -/
def linkReturn (st : State) : State := st.setReg 14 (st.pc + 4)

/-- B (R312). -/
def execB (c : Cond) (imm : BitVec 24) (st : State) : Result :=
  conditional c (.b c imm) st fun st => branchTo (branchTarget st.pc imm) st

/-- BL (R313). -/
def execBl (c : Cond) (imm : BitVec 24) (st : State) : Result :=
  conditional c (.bl c imm) st fun st => branchTo (branchTarget st.pc imm) (linkReturn st)

/-- BX (R314). -/
def execBx (c : Cond) (rm : RegNum) (st : State) : Result :=
  conditional c (.bx c rm) st fun st => branchExchange (st.readReg rm) st

/-- BLX, register form (R316): the target is read before R14 is written. -/
def execBlxReg (c : Cond) (rm : RegNum) (st : State) : Result :=
  conditional c (.blxReg c rm) st fun st => branchExchange (st.readReg rm) (linkReturn st)

/-- BLX, immediate form (R315): to Thumb state, unconditionally. -/
def execBlxImm (h : Bool) (imm : BitVec 24) (st : State) : Result :=
  .next
    { linkReturn st with
      cpsr := withThumb st.cpsr true
      pc := branchTarget st.pc imm + ((BitVec.ofBool h).setWidth 32 <<< 1) }

end Sys2Proof.Machine
end

