-- ==== Sys2Proof/Machine/Coproc.lean ====
section
/-! DEFINITION. The coprocessor instructions (46_coprocessor.md R340 to R347). With `coprocPresent` false for every number,
as the spec has it, each raises Undefined (R341). The other branch is the frame that R343 to R347 give a coprocessor whose
behaviour is not known: what it computes is free, and it has no state in the model. -/
namespace Sys2Proof.Machine

/-- The choice of R342: an absent coprocessor raises Undefined and nothing else happens (R341). R341 lets a coprocessor that
is present but cannot complete the operation raise Undefined too; DESIGN CHOICE (log entry 44): it always completes. -/
def coprocessor (cp : BitVec 4) (st : State) (present : State → Result) : Result :=
  if coprocPresent cp then present st else .next (takeException .undefinedInstruction st)

/-- The address of LDC and STC (R344, R138): P = 0, W = 0 is the unindexed form. -/
def coprocessorAddress (p u w : Bool) (base : Word) (off : BitVec 8) : Address :=
  let offset := off.setWidth 32 <<< 2
  if p then preIndexed u w base offset
  else if w then postIndexed u base offset
  else { addr := base, wb := none }

/-- How many words the coprocessor transfers, 1 to 16: free (R344). -/
def coprocessorWords (st : State) : Nat := (st.free.extractLsb' 0 4).toNat + 1

/-- Read `n` consecutive words for the coprocessor (R344). R103 speaks of LDM and STM alone; DESIGN CHOICE (log entry 42): the
word after 0xFFFFFFFC is the one at 0. R74 does not name LDC and STC; DESIGN CHOICE (log entry 45): a misaligned address loses
its low two bits, and nothing is rotated. -/
def coprocessorReads : Nat → Word → State → Access Unit
  | 0, _, st => .ok () st
  | n + 1, a, st =>
    match memRead a .word st with
    | .stop f => .stop f
    | .abort st => .abort st
    | .ok _ st => coprocessorReads n (a + 4) st

/-- Write `n` consecutive words the coprocessor supplies, each free (R345); past 0xFFFFFFFC (log entry 42) and at a misaligned
address (log entry 45) as for LDC. -/
def coprocessorWrites : Nat → Word → State → Access Unit
  | 0, _, st => .ok () st
  | n + 1, a, st =>
    match memWrite a .word st.free st.drawn with
    | .stop f => .stop f
    | .abort st => .abort st
    | .ok _ st => coprocessorWrites n (a + 4) st

/-- The end of LDC and STC: base write-back as R201. -/
def finishCoprocessor (rn : RegNum) (wb : Option Word) (r : Access Unit) : Result :=
  match r with
  | .stop f => .fault f
  | .abort st => abortTransfer rn wb st
  | .ok _ st => advance (writeBase rn wb st)

/-- LDC and STC with a coprocessor present, `access` making the transfers from the first address (R344, R345). Their
write-back is that of R201, which refuses Rn = R15; DEDUCED (log entry 43): so do LDC and STC. -/
def transferCoprocessor (p u w : Bool) (rn : RegNum) (off : BitVec 8) (st : State)
    (access : Word → State → Access Unit) : Result :=
  let m := coprocessorAddress p u w (st.readReg rn) off
  if m.wb.isSome && rn == 15 then .refused (.unpredictable .writebackPc)
  else finishCoprocessor rn m.wb (access m.addr st.drawn)

/-- CDP (R343): no ARM register and no memory is involved. -/
def execCdp (c : Cond) (op1 crn crd cp : BitVec 4) (op2 : BitVec 3) (crm : BitVec 4) (st : State) : Result :=
  conditional c (.cdp c op1 crn crd cp op2 crm) st fun st => coprocessor cp st fun st => advance st

/-- LDC (R344). -/
def execLdc (c : Cond) (p u n w : Bool) (rn : RegNum) (crd cp : BitVec 4) (off : BitVec 8) (st : State) : Result :=
  conditional c (.ldc c p u n w rn crd cp off) st fun st =>
    coprocessor cp st fun st => transferCoprocessor p u w rn off st (coprocessorReads (coprocessorWords st))

/-- STC (R345). -/
def execStc (c : Cond) (p u n w : Bool) (rn : RegNum) (crd cp : BitVec 4) (off : BitVec 8) (st : State) : Result :=
  conditional c (.stc c p u n w rn crd cp off) st fun st =>
    coprocessor cp st fun st => transferCoprocessor p u w rn off st (coprocessorWrites (coprocessorWords st))

/-- MCR (R346). -/
def execMcr (c : Cond) (op1 : BitVec 3) (crn : BitVec 4) (rd : RegNum) (cp : BitVec 4) (op2 : BitVec 3) (crm : BitVec 4)
    (st : State) : Result :=
  conditional c (.mcr c op1 crn rd cp op2 crm) st fun st =>
    coprocessor cp st fun st => if rd = 15 then .refused .coprocessorPc else advance st

/-- MRC (R347): for R15 the top four bits go to the flags. -/
def execMrc (c : Cond) (op1 : BitVec 3) (crn : BitVec 4) (rd : RegNum) (cp : BitVec 4) (op2 : BitVec 3) (crm : BitVec 4)
    (st : State) : Result :=
  conditional c (.mrc c op1 crn rd cp op2 crm) st fun st =>
    coprocessor cp st fun st =>
      if rd = 15 then advance (st.setFlags (flagsOf st.free)).drawn else advance (st.setReg rd st.free).drawn

end Sys2Proof.Machine
end

