-- ==== Sys2Proof/Machine/ExceptionInstrs.lean ====
section
/-! DEFINITION. The exception-generating instructions (47_exception_generating.md R360 to R362) and the two undefined
instruction spaces (30_encoding.md R146, 60_exceptions.md R431). -/
namespace Sys2Proof.Machine

/-- SWI (R361, R432). -/
def execSwi (c : Cond) (imm : BitVec 24) (st : State) : Result :=
  conditional c (.swi c imm) st fun st => .next (takeException .softwareInterrupt st)

/-- BKPT (R362): a Prefetch Abort, unconditionally. -/
def execBkpt (_imm : BitVec 16) (st : State) : Result := .next (takeException .prefetchAbort st)

/-- The undefined space `cond 011 .. 1 ..` (R146, R431). -/
def execUndefMem (c : Cond) (hi : BitVec 20) (lo : BitVec 4) (st : State) : Result :=
  conditional c (.undefMem c hi lo) st fun st => .next (takeException .undefinedInstruction st)

/-- The undefined space `cond 0011 0 y 00 ..` (R146, R431). -/
def execUndefMsr (c : Cond) (y : Bool) (lo : BitVec 20) (st : State) : Result :=
  conditional c (.undefMsr c y lo) st fun st => .next (takeException .undefinedInstruction st)

end Sys2Proof.Machine
end

