-- ==== Sys2Proof/Machine/Multiply.lean ====
section
/-! DEFINITION. The multiply instructions (43_multiply.md R290 to R298). All operands are read before any destination is
written (R291). -/
namespace Sys2Proof.Machine

/-- The flags of MULS and MLAS (R292, D18): N, Z from the 32-bit result, C free, V unchanged. -/
def setMultiplyFlags (r : Word) (st : State) : State :=
  (st.setFlags (multiplyFlags r (st.free.getLsbD 0) st.flags.v)).drawn

/-- The flags of the long S forms (R292, D18): N, Z from the 64-bit result, C and V free. -/
def setMultiplyLongFlags (r : BitVec 64) (st : State) : State :=
  (st.setFlags (multiplyFlags r (st.free.getLsbD 0) (st.free.getLsbD 1))).drawn

/-- Writing a 32-bit product (R293, R294). -/
def writeProduct (s : Bool) (rd : RegNum) (r : Word) (st : State) : Result :=
  advance ((if s then setMultiplyFlags r st else st).setReg rd r)

/-- Writing a 64-bit product (R295 to R298): RdLo the low, RdHi the high word. -/
def writeProductLong (s : Bool) (rdHi rdLo : RegNum) (r : BitVec 64) (st : State) : Result :=
  advance
    (((if s then setMultiplyLongFlags r st else st).setReg rdLo (r.extractLsb' 0 32)).setReg rdHi (r.extractLsb' 32 32))

/-- The unsigned 64-bit product (R297). -/
def productUnsigned (a b : Word) : BitVec 64 := a.setWidth 64 * b.setWidth 64

/-- The signed 64-bit product (R295). -/
def productSigned (a b : Word) : BitVec 64 := a.signExtend 64 * b.signExtend 64

/-- The 64-bit accumulator `R[RdHi] : R[RdLo]` (R296, R298). -/
def accumulator (rdHi rdLo : RegNum) (st : State) : BitVec 64 := st.readReg rdHi ++ st.readReg rdLo

/-- MUL (R293). -/
def execMul (c : Cond) (s : Bool) (rd rs rm : RegNum) (st : State) : Result :=
  conditional c (.mul c s rd rs rm) st fun st => writeProduct s rd (st.readReg rm * st.readReg rs) st

/-- MLA (R294). -/
def execMla (c : Cond) (s : Bool) (rd rn rs rm : RegNum) (st : State) : Result :=
  conditional c (.mla c s rd rn rs rm) st fun st =>
    writeProduct s rd (st.readReg rm * st.readReg rs + st.readReg rn) st

/-- UMULL (R297). -/
def execUmull (c : Cond) (s : Bool) (rdHi rdLo rs rm : RegNum) (st : State) : Result :=
  conditional c (.umull c s rdHi rdLo rs rm) st fun st =>
    writeProductLong s rdHi rdLo (productUnsigned (st.readReg rm) (st.readReg rs)) st

/-- UMLAL (R298). -/
def execUmlal (c : Cond) (s : Bool) (rdHi rdLo rs rm : RegNum) (st : State) : Result :=
  conditional c (.umlal c s rdHi rdLo rs rm) st fun st =>
    writeProductLong s rdHi rdLo (productUnsigned (st.readReg rm) (st.readReg rs) + accumulator rdHi rdLo st) st

/-- SMULL (R295). -/
def execSmull (c : Cond) (s : Bool) (rdHi rdLo rs rm : RegNum) (st : State) : Result :=
  conditional c (.smull c s rdHi rdLo rs rm) st fun st =>
    writeProductLong s rdHi rdLo (productSigned (st.readReg rm) (st.readReg rs)) st

/-- SMLAL (R296): one 64-bit addition. -/
def execSmlal (c : Cond) (s : Bool) (rdHi rdLo rs rm : RegNum) (st : State) : Result :=
  conditional c (.smlal c s rdHi rdLo rs rm) st fun st =>
    writeProductLong s rdHi rdLo (productSigned (st.readReg rm) (st.readReg rs) + accumulator rdHi rdLo st) st

end Sys2Proof.Machine
end

