-- ==== Sys2Proof/Machine/Pseudo.lean ====
section
/-! DEFINITION. The pseudo-instructions (49_assembler_and_pseudo.md R380 to R384): each means what the instructions it
expands to mean (`Instr.expand`). -/
namespace Sys2Proof.Machine

/-- `LDR Rd,=value` (R381): MOV, else MVN, else a PC-relative LDR from the literal pool. -/
def execLdrPseudo (c : Cond) (rd : RegNum) (value : Word) (u : Bool) (off : BitVec 12) (st : State) : Result :=
  match rotImmFor value with
  | some op => execMovImm c false rd op st
  | none =>
    match rotImmFor (~~~value) with
    | some op => execMvnImm c false rd op st
    | none => execLdrImmPre c u false 15 rd off st

/-- ADR (R382): one ADD or SUB from the PC. -/
def execAdr (c : Cond) (rd : RegNum) (u : Bool) (op : RotImm) (st : State) : Result :=
  if u then execAddImm c false 15 rd op st else execSubImm c false 15 rd op st

/-- ADRL (R383): two ADDs or SUBs, one after the other; with Rd = R15 the first already branches away (log entry 13). -/
def execAdrl (c : Cond) (rd : RegNum) (u : Bool) (op1 op2 : RotImm) (st : State) : Result :=
  match (if u then execAddImm c false 15 rd op1 st else execSubImm c false 15 rd op1 st) with
  | .next st1 =>
    if rd = 15 ∧ st.passes c = true then .next st1
    else if u then execAddImm c false rd rd op2 st1
    else execSubImm c false rd rd op2 st1
  | .fault f => .fault f
  | .refused r => .refused r

/-- NOP (R384): MOV R0,R0. -/
def execNop (st : State) : Result := execMovShiftImm .al false 0 { rm := 0, kind := .lsl, amount := 0 } st

end Sys2Proof.Machine
end

