-- ==== Sys2Proof/Machine/Psr.lean ====
section
/-! DEFINITION. The status register instructions (45_psr_access.md R330 to R334). -/
namespace Sys2Proof.Machine

/-- The bits that the field mask f s x c selects (R332). -/
def psrMask (mask : BitVec 4) : Word :=
  (if mask.getLsbD 3 then 0xFF000000 else 0) ||| (if mask.getLsbD 2 then 0x00FF0000 else 0)
    ||| (if mask.getLsbD 1 then 0x0000FF00 else 0) ||| (if mask.getLsbD 0 then 0x000000FF else 0)

/-- `old` with the bits of `mask` from `v` (R332). -/
def maskedWrite (old v mask : Word) : Word := (old &&& ~~~mask) ||| (v &&& mask)

/-- MSR to the CPSR (R332, R334): in User mode only the flag field; a change of T or an illegal mode stops (D20). -/
def writeCpsr (mask : BitVec 4) (v : Word) (st : State) : Result :=
  let m := if st.mode.privileged then psrMask mask else psrMask mask &&& 0xFF000000
  let new := maskedWrite st.cpsr v m
  if new.getLsbD 5 != st.cpsr.getLsbD 5 then .fault .msrChangesT
  else
    match modeOf new with
    | none => .fault .illegalMode
    | some _ => advance { st with cpsr := new }

/-- MSR to the SPSR of the current mode (R332, D19); the value is not checked. -/
def writeSpsr (mask : BitVec 4) (v : Word) (st : State) : Result :=
  match st.currentSpsr with
  | none => .fault .noSpsr
  | some old => advance { st with spsr := st.spsr.set st.mode (maskedWrite old v (psrMask mask)) }

/-- MRS (R331). -/
def execMrs (c : Cond) (r : Bool) (rd : RegNum) (st : State) : Result :=
  conditional c (.mrs c r rd) st fun st =>
    if r then
      match st.currentSpsr with
      | none => .fault .noSpsr
      | some psr => advance (st.setReg rd psr)
    else advance (st.setReg rd st.cpsr)

/-- MSR, register operand (R332). -/
def execMsrReg (c : Cond) (r : Bool) (mask : BitVec 4) (rm : RegNum) (st : State) : Result :=
  conditional c (.msrReg c r mask rm) st fun st =>
    if r then writeSpsr mask (st.readReg rm) st else writeCpsr mask (st.readReg rm) st

/-- MSR, immediate operand (R332). -/
def execMsrImm (c : Cond) (r : Bool) (mask : BitVec 4) (op : RotImm) (st : State) : Result :=
  conditional c (.msrImm c r mask op) st fun st =>
    if r then writeSpsr mask (rotImmValue op) st else writeCpsr mask (rotImmValue op) st

end Sys2Proof.Machine
end

