-- ==== Sys2Proof/Machine/Dispatch.lean ====
section
/-! DEFINITION. The meaning of every instruction: one arm per constructor of Instr. -/
namespace Sys2Proof.Machine

def exec (i : Instr) (s : State) : Host.Outcome State Fault Refusal :=
  match i with
  | .andImm c sbit rn rd op => Sys2Proof.Machine.execAndImm c sbit rn rd op s
  | .andShiftImm c sbit rn rd op => Sys2Proof.Machine.execAndShiftImm c sbit rn rd op s
  | .andShiftReg c sbit rn rd op => Sys2Proof.Machine.execAndShiftReg c sbit rn rd op s
  | .eorImm c sbit rn rd op => Sys2Proof.Machine.execEorImm c sbit rn rd op s
  | .eorShiftImm c sbit rn rd op => Sys2Proof.Machine.execEorShiftImm c sbit rn rd op s
  | .eorShiftReg c sbit rn rd op => Sys2Proof.Machine.execEorShiftReg c sbit rn rd op s
  | .subImm c sbit rn rd op => Sys2Proof.Machine.execSubImm c sbit rn rd op s
  | .subShiftImm c sbit rn rd op => Sys2Proof.Machine.execSubShiftImm c sbit rn rd op s
  | .subShiftReg c sbit rn rd op => Sys2Proof.Machine.execSubShiftReg c sbit rn rd op s
  | .rsbImm c sbit rn rd op => Sys2Proof.Machine.execRsbImm c sbit rn rd op s
  | .rsbShiftImm c sbit rn rd op => Sys2Proof.Machine.execRsbShiftImm c sbit rn rd op s
  | .rsbShiftReg c sbit rn rd op => Sys2Proof.Machine.execRsbShiftReg c sbit rn rd op s
  | .addImm c sbit rn rd op => Sys2Proof.Machine.execAddImm c sbit rn rd op s
  | .addShiftImm c sbit rn rd op => Sys2Proof.Machine.execAddShiftImm c sbit rn rd op s
  | .addShiftReg c sbit rn rd op => Sys2Proof.Machine.execAddShiftReg c sbit rn rd op s
  | .adcImm c sbit rn rd op => Sys2Proof.Machine.execAdcImm c sbit rn rd op s
  | .adcShiftImm c sbit rn rd op => Sys2Proof.Machine.execAdcShiftImm c sbit rn rd op s
  | .adcShiftReg c sbit rn rd op => Sys2Proof.Machine.execAdcShiftReg c sbit rn rd op s
  | .sbcImm c sbit rn rd op => Sys2Proof.Machine.execSbcImm c sbit rn rd op s
  | .sbcShiftImm c sbit rn rd op => Sys2Proof.Machine.execSbcShiftImm c sbit rn rd op s
  | .sbcShiftReg c sbit rn rd op => Sys2Proof.Machine.execSbcShiftReg c sbit rn rd op s
  | .rscImm c sbit rn rd op => Sys2Proof.Machine.execRscImm c sbit rn rd op s
  | .rscShiftImm c sbit rn rd op => Sys2Proof.Machine.execRscShiftImm c sbit rn rd op s
  | .rscShiftReg c sbit rn rd op => Sys2Proof.Machine.execRscShiftReg c sbit rn rd op s
  | .tstImm c rn op => Sys2Proof.Machine.execTstImm c rn op s
  | .tstShiftImm c rn op => Sys2Proof.Machine.execTstShiftImm c rn op s
  | .tstShiftReg c rn op => Sys2Proof.Machine.execTstShiftReg c rn op s
  | .teqImm c rn op => Sys2Proof.Machine.execTeqImm c rn op s
  | .teqShiftImm c rn op => Sys2Proof.Machine.execTeqShiftImm c rn op s
  | .teqShiftReg c rn op => Sys2Proof.Machine.execTeqShiftReg c rn op s
  | .cmpImm c rn op => Sys2Proof.Machine.execCmpImm c rn op s
  | .cmpShiftImm c rn op => Sys2Proof.Machine.execCmpShiftImm c rn op s
  | .cmpShiftReg c rn op => Sys2Proof.Machine.execCmpShiftReg c rn op s
  | .cmnImm c rn op => Sys2Proof.Machine.execCmnImm c rn op s
  | .cmnShiftImm c rn op => Sys2Proof.Machine.execCmnShiftImm c rn op s
  | .cmnShiftReg c rn op => Sys2Proof.Machine.execCmnShiftReg c rn op s
  | .orrImm c sbit rn rd op => Sys2Proof.Machine.execOrrImm c sbit rn rd op s
  | .orrShiftImm c sbit rn rd op => Sys2Proof.Machine.execOrrShiftImm c sbit rn rd op s
  | .orrShiftReg c sbit rn rd op => Sys2Proof.Machine.execOrrShiftReg c sbit rn rd op s
  | .movImm c sbit rd op => Sys2Proof.Machine.execMovImm c sbit rd op s
  | .movShiftImm c sbit rd op => Sys2Proof.Machine.execMovShiftImm c sbit rd op s
  | .movShiftReg c sbit rd op => Sys2Proof.Machine.execMovShiftReg c sbit rd op s
  | .bicImm c sbit rn rd op => Sys2Proof.Machine.execBicImm c sbit rn rd op s
  | .bicShiftImm c sbit rn rd op => Sys2Proof.Machine.execBicShiftImm c sbit rn rd op s
  | .bicShiftReg c sbit rn rd op => Sys2Proof.Machine.execBicShiftReg c sbit rn rd op s
  | .mvnImm c sbit rd op => Sys2Proof.Machine.execMvnImm c sbit rd op s
  | .mvnShiftImm c sbit rd op => Sys2Proof.Machine.execMvnShiftImm c sbit rd op s
  | .mvnShiftReg c sbit rd op => Sys2Proof.Machine.execMvnShiftReg c sbit rd op s
  | .mul c sbit rd rs rm => Sys2Proof.Machine.execMul c sbit rd rs rm s
  | .mla c sbit rd rn rs rm => Sys2Proof.Machine.execMla c sbit rd rn rs rm s
  | .umull c sbit rdHi rdLo rs rm => Sys2Proof.Machine.execUmull c sbit rdHi rdLo rs rm s
  | .umlal c sbit rdHi rdLo rs rm => Sys2Proof.Machine.execUmlal c sbit rdHi rdLo rs rm s
  | .smull c sbit rdHi rdLo rs rm => Sys2Proof.Machine.execSmull c sbit rdHi rdLo rs rm s
  | .smlal c sbit rdHi rdLo rs rm => Sys2Proof.Machine.execSmlal c sbit rdHi rdLo rs rm s
  | .swp c rn rd rm => Sys2Proof.Machine.execSwp c rn rd rm s
  | .swpb c rn rd rm => Sys2Proof.Machine.execSwpb c rn rd rm s
  | .ldrhImmPre c u w rn rd imm => Sys2Proof.Machine.execLdrhImmPre c u w rn rd imm s
  | .ldrhImmPost c u rn rd imm => Sys2Proof.Machine.execLdrhImmPost c u rn rd imm s
  | .ldrhRegPre c u w rn rd rm => Sys2Proof.Machine.execLdrhRegPre c u w rn rd rm s
  | .ldrhRegPost c u rn rd rm => Sys2Proof.Machine.execLdrhRegPost c u rn rd rm s
  | .strhImmPre c u w rn rd imm => Sys2Proof.Machine.execStrhImmPre c u w rn rd imm s
  | .strhImmPost c u rn rd imm => Sys2Proof.Machine.execStrhImmPost c u rn rd imm s
  | .strhRegPre c u w rn rd rm => Sys2Proof.Machine.execStrhRegPre c u w rn rd rm s
  | .strhRegPost c u rn rd rm => Sys2Proof.Machine.execStrhRegPost c u rn rd rm s
  | .ldrsbImmPre c u w rn rd imm => Sys2Proof.Machine.execLdrsbImmPre c u w rn rd imm s
  | .ldrsbImmPost c u rn rd imm => Sys2Proof.Machine.execLdrsbImmPost c u rn rd imm s
  | .ldrsbRegPre c u w rn rd rm => Sys2Proof.Machine.execLdrsbRegPre c u w rn rd rm s
  | .ldrsbRegPost c u rn rd rm => Sys2Proof.Machine.execLdrsbRegPost c u rn rd rm s
  | .ldrshImmPre c u w rn rd imm => Sys2Proof.Machine.execLdrshImmPre c u w rn rd imm s
  | .ldrshImmPost c u rn rd imm => Sys2Proof.Machine.execLdrshImmPost c u rn rd imm s
  | .ldrshRegPre c u w rn rd rm => Sys2Proof.Machine.execLdrshRegPre c u w rn rd rm s
  | .ldrshRegPost c u rn rd rm => Sys2Proof.Machine.execLdrshRegPost c u rn rd rm s
  | .ldrImmPre c u w rn rd imm => Sys2Proof.Machine.execLdrImmPre c u w rn rd imm s
  | .ldrImmPost c u rn rd imm => Sys2Proof.Machine.execLdrImmPost c u rn rd imm s
  | .ldrRegPre c u w rn rd off => Sys2Proof.Machine.execLdrRegPre c u w rn rd off s
  | .ldrRegPost c u rn rd off => Sys2Proof.Machine.execLdrRegPost c u rn rd off s
  | .strImmPre c u w rn rd imm => Sys2Proof.Machine.execStrImmPre c u w rn rd imm s
  | .strImmPost c u rn rd imm => Sys2Proof.Machine.execStrImmPost c u rn rd imm s
  | .strRegPre c u w rn rd off => Sys2Proof.Machine.execStrRegPre c u w rn rd off s
  | .strRegPost c u rn rd off => Sys2Proof.Machine.execStrRegPost c u rn rd off s
  | .ldrbImmPre c u w rn rd imm => Sys2Proof.Machine.execLdrbImmPre c u w rn rd imm s
  | .ldrbImmPost c u rn rd imm => Sys2Proof.Machine.execLdrbImmPost c u rn rd imm s
  | .ldrbRegPre c u w rn rd off => Sys2Proof.Machine.execLdrbRegPre c u w rn rd off s
  | .ldrbRegPost c u rn rd off => Sys2Proof.Machine.execLdrbRegPost c u rn rd off s
  | .strbImmPre c u w rn rd imm => Sys2Proof.Machine.execStrbImmPre c u w rn rd imm s
  | .strbImmPost c u rn rd imm => Sys2Proof.Machine.execStrbImmPost c u rn rd imm s
  | .strbRegPre c u w rn rd off => Sys2Proof.Machine.execStrbRegPre c u w rn rd off s
  | .strbRegPost c u rn rd off => Sys2Proof.Machine.execStrbRegPost c u rn rd off s
  | .ldm c p u sbit w rn list => Sys2Proof.Machine.execLdm c p u sbit w rn list s
  | .stm c p u sbit w rn list => Sys2Proof.Machine.execStm c p u sbit w rn list s
  | .b c imm => Sys2Proof.Machine.execB c imm s
  | .bl c imm => Sys2Proof.Machine.execBl c imm s
  | .bx c rm => Sys2Proof.Machine.execBx c rm s
  | .blxReg c rm => Sys2Proof.Machine.execBlxReg c rm s
  | .blxImm h imm => Sys2Proof.Machine.execBlxImm h imm s
  | .mrs c r rd => Sys2Proof.Machine.execMrs c r rd s
  | .msrReg c r mask rm => Sys2Proof.Machine.execMsrReg c r mask rm s
  | .msrImm c r mask op => Sys2Proof.Machine.execMsrImm c r mask op s
  | .cdp c op1 crn crd cp op2 crm => Sys2Proof.Machine.execCdp c op1 crn crd cp op2 crm s
  | .ldc c p u n w rn crd cp off => Sys2Proof.Machine.execLdc c p u n w rn crd cp off s
  | .stc c p u n w rn crd cp off => Sys2Proof.Machine.execStc c p u n w rn crd cp off s
  | .mcr c op1 crn rd cp op2 crm => Sys2Proof.Machine.execMcr c op1 crn rd cp op2 crm s
  | .mrc c op1 crn rd cp op2 crm => Sys2Proof.Machine.execMrc c op1 crn rd cp op2 crm s
  | .swi c imm => Sys2Proof.Machine.execSwi c imm s
  | .bkpt imm => Sys2Proof.Machine.execBkpt imm s
  | .undefMem c hi lo => Sys2Proof.Machine.execUndefMem c hi lo s
  | .undefMsr c y lo => Sys2Proof.Machine.execUndefMsr c y lo s
  | .ldrPseudo c rd value u off => Sys2Proof.Machine.execLdrPseudo c rd value u off s
  | .adr c rd u op => Sys2Proof.Machine.execAdr c rd u op s
  | .adrl c rd u op1 op2 => Sys2Proof.Machine.execAdrl c rd u op1 op2 s
  | .nop => Sys2Proof.Machine.execNop s

end Sys2Proof.Machine
end

