-- ==== Sys2Proof/Machine/Fetch.lean ====
section
/-! DEFINITION. Running one instruction (00_scope.md R12 steps 2 to 5): fetch, decode, the User-bank LDM hazard
(70_reset_and_hazards.md R652), and the meaning; also how a program word is placed for the fetch. -/
namespace Sys2Proof.Machine

/-- The registers that the register fields and the register list of an instruction name (R652). -/
def namedRegs : Instr → List RegNum
  | .andImm _ _ rn rd _ => [rn, rd]
  | .andShiftImm _ _ rn rd op => [rn, rd, op.rm]
  | .andShiftReg _ _ rn rd op => [rn, rd, op.rm, op.rs]
  | .eorImm _ _ rn rd _ => [rn, rd]
  | .eorShiftImm _ _ rn rd op => [rn, rd, op.rm]
  | .eorShiftReg _ _ rn rd op => [rn, rd, op.rm, op.rs]
  | .subImm _ _ rn rd _ => [rn, rd]
  | .subShiftImm _ _ rn rd op => [rn, rd, op.rm]
  | .subShiftReg _ _ rn rd op => [rn, rd, op.rm, op.rs]
  | .rsbImm _ _ rn rd _ => [rn, rd]
  | .rsbShiftImm _ _ rn rd op => [rn, rd, op.rm]
  | .rsbShiftReg _ _ rn rd op => [rn, rd, op.rm, op.rs]
  | .addImm _ _ rn rd _ => [rn, rd]
  | .addShiftImm _ _ rn rd op => [rn, rd, op.rm]
  | .addShiftReg _ _ rn rd op => [rn, rd, op.rm, op.rs]
  | .adcImm _ _ rn rd _ => [rn, rd]
  | .adcShiftImm _ _ rn rd op => [rn, rd, op.rm]
  | .adcShiftReg _ _ rn rd op => [rn, rd, op.rm, op.rs]
  | .sbcImm _ _ rn rd _ => [rn, rd]
  | .sbcShiftImm _ _ rn rd op => [rn, rd, op.rm]
  | .sbcShiftReg _ _ rn rd op => [rn, rd, op.rm, op.rs]
  | .rscImm _ _ rn rd _ => [rn, rd]
  | .rscShiftImm _ _ rn rd op => [rn, rd, op.rm]
  | .rscShiftReg _ _ rn rd op => [rn, rd, op.rm, op.rs]
  | .tstImm _ rn _ => [rn]
  | .tstShiftImm _ rn op => [rn, op.rm]
  | .tstShiftReg _ rn op => [rn, op.rm, op.rs]
  | .teqImm _ rn _ => [rn]
  | .teqShiftImm _ rn op => [rn, op.rm]
  | .teqShiftReg _ rn op => [rn, op.rm, op.rs]
  | .cmpImm _ rn _ => [rn]
  | .cmpShiftImm _ rn op => [rn, op.rm]
  | .cmpShiftReg _ rn op => [rn, op.rm, op.rs]
  | .cmnImm _ rn _ => [rn]
  | .cmnShiftImm _ rn op => [rn, op.rm]
  | .cmnShiftReg _ rn op => [rn, op.rm, op.rs]
  | .orrImm _ _ rn rd _ => [rn, rd]
  | .orrShiftImm _ _ rn rd op => [rn, rd, op.rm]
  | .orrShiftReg _ _ rn rd op => [rn, rd, op.rm, op.rs]
  | .movImm _ _ rd _ => [rd]
  | .movShiftImm _ _ rd op => [rd, op.rm]
  | .movShiftReg _ _ rd op => [rd, op.rm, op.rs]
  | .bicImm _ _ rn rd _ => [rn, rd]
  | .bicShiftImm _ _ rn rd op => [rn, rd, op.rm]
  | .bicShiftReg _ _ rn rd op => [rn, rd, op.rm, op.rs]
  | .mvnImm _ _ rd _ => [rd]
  | .mvnShiftImm _ _ rd op => [rd, op.rm]
  | .mvnShiftReg _ _ rd op => [rd, op.rm, op.rs]
  | .mul _ _ rd rs rm => [rd, rs, rm]
  | .mla _ _ rd rn rs rm => [rd, rn, rs, rm]
  | .umull _ _ rdHi rdLo rs rm => [rdHi, rdLo, rs, rm]
  | .umlal _ _ rdHi rdLo rs rm => [rdHi, rdLo, rs, rm]
  | .smull _ _ rdHi rdLo rs rm => [rdHi, rdLo, rs, rm]
  | .smlal _ _ rdHi rdLo rs rm => [rdHi, rdLo, rs, rm]
  | .swp _ rn rd rm => [rn, rd, rm]
  | .swpb _ rn rd rm => [rn, rd, rm]
  | .ldrhImmPre _ _ _ rn rd _ => [rn, rd]
  | .ldrhImmPost _ _ rn rd _ => [rn, rd]
  | .ldrhRegPre _ _ _ rn rd rm => [rn, rd, rm]
  | .ldrhRegPost _ _ rn rd rm => [rn, rd, rm]
  | .strhImmPre _ _ _ rn rd _ => [rn, rd]
  | .strhImmPost _ _ rn rd _ => [rn, rd]
  | .strhRegPre _ _ _ rn rd rm => [rn, rd, rm]
  | .strhRegPost _ _ rn rd rm => [rn, rd, rm]
  | .ldrsbImmPre _ _ _ rn rd _ => [rn, rd]
  | .ldrsbImmPost _ _ rn rd _ => [rn, rd]
  | .ldrsbRegPre _ _ _ rn rd rm => [rn, rd, rm]
  | .ldrsbRegPost _ _ rn rd rm => [rn, rd, rm]
  | .ldrshImmPre _ _ _ rn rd _ => [rn, rd]
  | .ldrshImmPost _ _ rn rd _ => [rn, rd]
  | .ldrshRegPre _ _ _ rn rd rm => [rn, rd, rm]
  | .ldrshRegPost _ _ rn rd rm => [rn, rd, rm]
  | .ldrImmPre _ _ _ rn rd _ => [rn, rd]
  | .ldrImmPost _ _ rn rd _ => [rn, rd]
  | .ldrRegPre _ _ _ rn rd off => [rn, rd, off.rm]
  | .ldrRegPost _ _ rn rd off => [rn, rd, off.rm]
  | .strImmPre _ _ _ rn rd _ => [rn, rd]
  | .strImmPost _ _ rn rd _ => [rn, rd]
  | .strRegPre _ _ _ rn rd off => [rn, rd, off.rm]
  | .strRegPost _ _ rn rd off => [rn, rd, off.rm]
  | .ldrbImmPre _ _ _ rn rd _ => [rn, rd]
  | .ldrbImmPost _ _ rn rd _ => [rn, rd]
  | .ldrbRegPre _ _ _ rn rd off => [rn, rd, off.rm]
  | .ldrbRegPost _ _ rn rd off => [rn, rd, off.rm]
  | .strbImmPre _ _ _ rn rd _ => [rn, rd]
  | .strbImmPost _ _ rn rd _ => [rn, rd]
  | .strbRegPre _ _ _ rn rd off => [rn, rd, off.rm]
  | .strbRegPost _ _ rn rd off => [rn, rd, off.rm]
  | .ldm _ _ _ _ _ rn list => rn :: blockRegs list
  | .stm _ _ _ _ _ rn list => rn :: blockRegs list
  | .b _ _ => []
  | .bl _ _ => []
  | .bx _ rm => [rm]
  | .blxReg _ rm => [rm]
  | .blxImm _ _ => []
  | .mrs _ _ rd => [rd]
  | .msrReg _ _ _ rm => [rm]
  | .msrImm _ _ _ _ => []
  | .cdp _ _ _ _ _ _ _ => []
  | .ldc _ _ _ _ _ rn _ _ _ => [rn]
  | .stc _ _ _ _ _ rn _ _ _ => [rn]
  | .mcr _ _ _ rd _ _ _ => [rd]
  | .mrc _ _ _ rd _ _ _ => [rd]
  | .swi _ _ => []
  | .bkpt _ => []
  | .undefMem _ _ _ => []
  | .undefMsr _ _ _ => []
  | .ldrPseudo _ rd _ _ _ => [rd]
  | .adr _ rd _ _ => [rd]
  | .adrl _ rd _ _ _ => [rd]
  | .nop => [0]

/-- Whether register `r` is banked in mode `m`, as R652 counts it: R13, R14, and in FIQ mode R8 to R12. -/
def bankedIn (m : Mode) (r : RegNum) : Bool := r == 13 || r == 14 || (m == .fiq && decide (8 ≤ r.toNat) && r != 15)

/-- Whether `i`, run directly after a User-bank LDM, meets the hazard of R652: its condition passes and it names a banked
register. -/
def bankHazard (i : Instr) (st : State) : Bool :=
  st.userBankLdm && (i.cond?.all fun c => st.passes c) && (namedRegs i).any (bankedIn st.mode)

/-- Running a decoded instruction: the hazard check, then its meaning. -/
def runInstr (i : Instr) (st : State) : Result :=
  if bankHazard i st then .refused .bankedRegisterAfterUserLdm else exec i { st with userBankLdm := false }

/-- A word that is no instruction of the spec: refused (R147, R148, R149); a wrong should-be field only matters once the
condition has passed (R149, R150, D7). -/
def runUndecodable (e : DecodeError) (st : State) : Result :=
  match e with
  | .shouldBe c => if st.passes c then .refused (.undecodable e) else advance { st with userBankLdm := false }
  | _ => .refused (.undecodable e)

/-- Decode a fetched word and run it. -/
def runWord (w : Word) (st : State) : Result :=
  match decodeBytes (wordBytes w) with
  | .ok (i, _) => runInstr i st
  | .error e => runUndecodable e st

/-- Fetch and run the instruction at the PC (R12 steps 2 to 5): a Prefetch Abort where the fetch fails (R433), a refusal
in Thumb state (R372). -/
def runNext (st : State) : Result :=
  if st.thumb then .refused .thumbState
  else
    match fetch st with
    | .stop f => .fault f
    | .abort st => .next (takeException .prefetchAbort st)
    | .ok w st => runWord w st

/-- One step of the machine (R12). -/
def stepOnce (st : State) : Result :=
  match boundary st with
  | .done st => .next st
  | .run st => runNext st

/-- Where the fetch at the PC reads; the PC itself while MAP is reserved. -/
def fetchAddress (st : State) : Nat := (remap st.sys.memmap st.pc).getD st.pc.toNat

/-- `st` with the word `w` where the next fetch reads: a program placed from outside, as the Flash is programmed (log
entry 7). A pending SRAM datum is first written to the cells, so that it does not cover the word. -/
def placeWord (st : State) (w : Word) : State :=
  { st with
    mem := (commitPending st.mem st.sramPending).store (fetchAddress st) 4 w
    sramPending := none }

end Sys2Proof.Machine
end

