-- ==== Sys2Proof/Machine/Step.lean ====
section
/-! DEFINITION. The step function and the placing of a program word; both only call Fetch.lean. -/
namespace Sys2Proof.Machine

/-- One step: one instruction or one exception entry (R12, R660). -/
def step (s : State) : Host.Outcome State Fault Refusal := stepOnce s

/-- The instruction whose bits are `w` (numbered as spec/opcode_table.json numbers them, zero above `nbits`), stored where
the next step fetches. -/
def State.withFetchWord (s : State) (nbits w : Nat) : State := placeWord s (tableWord nbits w)

end Sys2Proof.Machine
end

