-- ==== Sys2Proof/Safety.lean ====
section
/-! DEFINITION. What a legal state and a safe run are, and the terms in which the statements speak of what an instruction
leaves unchanged, of memory an instruction may use, and of the entry into an exception. -/
namespace Sys2Proof.Machine

/-! ### Legal states -/

/-- The mode field holds one of the seven modes (R35). -/
def State.modeLegal (st : State) : Bool := (modeOf st.cpsr).isSome

/-- The PC is aligned for the state the T bit selects (R27). -/
def State.pcAligned (st : State) : Bool := alignedFor st.cpsr st.pc

/-- The datum of the write-back buffer lies in the on-chip SRAM (R92). -/
def State.pendingInSram (st : State) : Bool :=
  match st.sramPending with
  | none => true
  | some p => decide (0x40000000 ≤ p.addr) && decide (p.addr + p.width.bytes ≤ 0x40010000)

/-- Memory is in its canonical form and the write-back buffer lies in the SRAM. -/
def State.memoryLegal (st : State) : Bool := st.mem.wf && st.pendingInSram

/-- No control field holds a value the spec calls reserved (D26 b), and PCON's mode bits name the power mode (R492). -/
def State.controlLegal (st : State) : Bool :=
  st.sys.mamcr != 3 && st.sys.mamtim != 0 && st.sys.memmap != 3 && st.sys.clksrcsel != 3
    && pconMode (st.sys.pcon.setWidth 32) == some st.power

/-- The invariant of the machine: every state a run reaches has it. -/
def State.legal (st : State) : Bool :=
  st.memoryLegal && st.modeLegal && st.pcAligned && st.controlLegal

/-- What is written to undescribed register bits is not stored (R465, D26 a). -/
def State.reservedClear (st : State) : Bool :=
  st.ext.intwake &&& 0x3F00 == 0 && st.sys.scs &&& 0xC4 == 0 && st.sys.pcon &&& 0x60 == 0
    && st.sys.pllcfg &&& 0xFF008000 == 0 && st.sys.pllCfgEff &&& 0xFF008000 == 0 && st.sys.pconp &&& 0x00078001 == 0
    && st.pinConn.pinsel[10] &&& 0xFFFFFFF7 == 0

/-- `n` steps end in a state, with no stop on the way. -/
def RunsFor : Nat → State → Prop
  | 0, _ => True
  | n + 1, st => ∃ t, step st = .next t ∧ RunsFor n t

/-- A safe run: the machine never stops. -/
def RunsSafely (st : State) : Prop := ∀ n, RunsFor n st

/-! ### What an instruction leaves unchanged -/

/-- `i` may have its effect now: its condition, if it has one, passes, and it is well formed (R12, R170, R651). -/
def Ready (i : Instr) (st : State) : Prop :=
  i.wellFormed = true ∧ ∀ c, i.cond? = some c → st.passes c = true

/-- Every general register of every mode is as before, but those of the current mode in `written`. -/
def RegistersKept (st t : State) (written : List RegNum) : Prop :=
  ∀ m r, r ≠ 15 → (∀ x ∈ written, x = 15 ∨ physIndex m r ≠ physIndex st.mode x) → t.regIn m r = st.regIn m r

/-- The bits 27:0 of the CPSR and every SPSR are as before: of the status registers at most the flags changed. -/
def StatusKept (st t : State) : Prop :=
  t.cpsr.extractLsb' 0 28 = st.cpsr.extractLsb' 0 28 ∧ t.spsr = st.spsr

/-- Memory is as before: the cells, the SRAM write-back buffer, and what every address reads as. -/
def MemoryKept (st t : State) : Prop :=
  t.mem = st.mem ∧ t.sramPending = st.sramPending ∧ ∀ a, t.byteAt a = st.byteAt a

/-- Every platform register, the power mode and the inputs are as before. -/
def DevicesKept (st t : State) : Prop :=
  t.vic = st.vic ∧ t.ext = st.ext ∧ t.sys = st.sys ∧ t.pinConn = st.pinConn ∧ t.emc = st.emc ∧ t.power = st.power
    ∧ t.env = st.env

/-- The frame of an instruction that writes only general registers, the flags and the PC. -/
def OnlyRegisters (st t : State) (written : List RegNum) : Prop :=
  RegistersKept st t written ∧ StatusKept st t ∧ MemoryKept st t ∧ DevicesKept st t ∧ t.userBankLdm = st.userBankLdm

/-- The frame of an instruction that writes only the bytes `p` to `p + n - 1`, general registers and the PC. -/
def OnlyBytes (st t : State) (p n : Nat) (written : List RegNum) : Prop :=
  RegistersKept st t written ∧ t.cpsr = st.cpsr ∧ t.spsr = st.spsr ∧ DevicesKept st t
    ∧ t.userBankLdm = st.userBankLdm ∧ t.freeIdx = st.freeIdx
    ∧ ∀ a, a < p ∨ p + n ≤ a → t.byteAt a = st.byteAt a

/-! ### Memory an instruction may use -/

/-- Address `p` is in a memory: Flash, a RAM or the boot block (R76). -/
abbrev plainMemory (p : Nat) : Prop := (regionOf p).kind = .memory

/-- Address `p` is in a memory that a store changes: on-chip SRAM, USB RAM or Ethernet RAM (R92, R93). -/
abbrev plainRam (p : Nat) : Prop := regionOf p = .sram ∨ regionOf p = .otherRam

/-- The halfword at `p`, little-endian (R70). -/
def State.halfAt (st : State) (p : Nat) : BitVec 16 := st.byteAt (p + 1) ++ st.byteAt p

/-- The word at `p`, little-endian (R70). -/
def State.wordAt (st : State) (p : Nat) : Word :=
  st.byteAt (p + 3) ++ st.byteAt (p + 2) ++ st.byteAt (p + 1) ++ st.byteAt p

/-- The registers an addressing mode writes back (R201). -/
def Address.written (m : Address) (rn : RegNum) : List RegNum := if m.wb.isSome then [rn] else []

/-- How many registers below `k` are in the list of an LDM or STM: the place of register `k` in the transfer (R221). -/
def listRank (list : BitVec 16) (k : Nat) : Nat := ((List.range k).filter fun j => list.getLsbD j).length

/-! ### Entry into an exception -/

/-- `t` is `st` after the entry into an exception (R436): mode `m`, the return address in its R14, the old CPSR in its SPSR,
I set, F set if `f`, T clear, the PC at the vector, and everything else as before. -/
def Entered (st t : State) (m : Mode) (ret vector : Word) (f : Bool) : Prop :=
  t.mode = m ∧ t.regIn m 14 = ret ∧ t.spsr.get m = some st.cpsr ∧ t.pc = vector
    ∧ t.irqDisabled = true ∧ t.fiqDisabled = (f || st.fiqDisabled) ∧ t.thumb = false
    ∧ t.cpsr.extractLsb' 8 24 = st.cpsr.extractLsb' 8 24
    ∧ (∀ m', m' ≠ m → t.spsr.get m' = st.spsr.get m')
    ∧ (∀ m' r, r ≠ 15 → physIndex m' r ≠ physIndex m 14 → t.regIn m' r = st.regIn m' r)
    ∧ MemoryKept st t ∧ DevicesKept st t

/-! ### What an instruction does when it completes -/

/-- A data-processing instruction with destination `rd`, result `v` and flags `f` (R251, R253): the register and, with S, the
flags are written; for R15 the PC is written, with S together with the CPSR from the SPSR. -/
def Computes (i : Instr) (st : State) (s : Bool) (rd : RegNum) (v : Word) (f : Flags) : Prop :=
  Ready i st →
    (rd ≠ 15 → st.pc ≠ 0xFFFFFFFC →
      ∃ t, exec i st = .next t ∧ t.reg rd = v ∧ t.flags = (if s then f else st.flags) ∧ t.pc = st.pc + 4
        ∧ OnlyRegisters st t [rd] ∧ t.freeIdx = st.freeIdx)
    ∧ (rd = 15 → s = false → v.extractLsb' 0 2 = 0 → exec i st = .next { st with pc := v })
    ∧ (rd = 15 → s = false → v.extractLsb' 0 2 ≠ 0 → exec i st = .fault .misalignedPc)
    ∧ (rd = 15 → s = true → ∀ psr, st.currentSpsr = some psr → (modeOf psr).isSome = true → alignedFor psr v = true →
        exec i st = .next { st with cpsr := psr, pc := v })
    ∧ (rd = 15 → s = true → ∀ psr, st.currentSpsr = some psr → modeOf psr = none → exec i st = .fault .illegalMode)
    ∧ (rd = 15 → s = true → ∀ psr, st.currentSpsr = some psr → (modeOf psr).isSome = true → psr.getLsbD 5 = false →
        v.extractLsb' 0 2 ≠ 0 → exec i st = .fault .misalignedPc)
    ∧ (rd = 15 → s = true → ∀ psr, st.currentSpsr = some psr → (modeOf psr).isSome = true → psr.getLsbD 5 = true →
        v.getLsbD 0 = true →
        ∃ x idx, exec i st = .next { st with cpsr := psr, pc := x, freeIdx := idx } ∧ x.getLsbD 0 = false)
    ∧ (rd = 15 → s = true → st.currentSpsr = none → exec i st = .fault .noSpsr)

/-- A compare instruction with flags `f` (R250): only the flags change. -/
def Compares (i : Instr) (st : State) (f : Flags) : Prop :=
  Ready i st → st.pc ≠ 0xFFFFFFFC →
    ∃ t, exec i st = .next t ∧ t.flags = f ∧ t.pc = st.pc + 4 ∧ OnlyRegisters st t [] ∧ t.freeIdx = st.freeIdx

/-- A load of `n` bytes from a memory, at the address of `m`, into `rd` (R211): `value` of the physical address arrives. -/
def LoadsMemory (i : Instr) (st : State) (n : Nat) (m : Address) (rn rd : RegNum) (value : Nat → Word) : Prop :=
  Ready i st → ∀ p, remap st.sys.memmap m.addr = some p → plainMemory p → p % n = 0 →
    (rd ≠ 15 → st.pc ≠ 0xFFFFFFFC →
      ∃ t, exec i st = .next t ∧ t.reg rd = value p ∧ (∀ v, m.wb = some v → t.reg rn = v) ∧ t.pc = st.pc + 4
        ∧ t.cpsr = st.cpsr ∧ OnlyRegisters st t (rd :: m.written rn) ∧ t.freeIdx = st.freeIdx)
    ∧ (rd = 15 → (value p).extractLsb' 0 2 = 0 →
      ∃ t, exec i st = .next t ∧ t.pc = value p ∧ (∀ v, m.wb = some v → t.reg rn = v)
        ∧ t.cpsr = st.cpsr ∧ OnlyRegisters st t (m.written rn) ∧ t.freeIdx = st.freeIdx)
    ∧ (rd = 15 → (value p).extractLsb' 0 2 ≠ 0 → exec i st = .fault .misalignedPc)

/-- A store of the low `n` bytes of `v` to a RAM, at the address of `m` (R211), memory being legal. -/
def StoresMemory (i : Instr) (st : State) (n : Nat) (m : Address) (rn : RegNum) (v : Word) : Prop :=
  Ready i st → st.memoryLegal = true → ∀ p, remap st.sys.memmap m.addr = some p → plainRam p → p % n = 0 →
    intoPrefetch p st = false → st.pc ≠ 0xFFFFFFFC →
      ∃ t, exec i st = .next t ∧ (∀ k, k < n → t.byteAt (p + k) = v.extractLsb' (8 * k) 8)
        ∧ (∀ b, m.wb = some b → t.reg rn = b) ∧ t.pc = st.pc + 4 ∧ OnlyBytes st t p n (m.written rn)

/-- A swap of `n` bytes with a RAM (R226, R227): `value` of the physical address goes to `rd`, the low bytes of `v` to
memory. -/
def SwapsMemory (i : Instr) (st : State) (n : Nat) (addr : Word) (rd : RegNum) (value : Nat → Word) (v : Word) : Prop :=
  Ready i st → st.memoryLegal = true → ∀ p, remap st.sys.memmap addr = some p → plainRam p → p % n = 0 →
    intoPrefetch p st = false → st.pc ≠ 0xFFFFFFFC →
      ∃ t, exec i st = .next t ∧ t.reg rd = value p ∧ (∀ k, k < n → t.byteAt (p + k) = v.extractLsb' (8 * k) 8)
        ∧ t.pc = st.pc + 4 ∧ OnlyBytes st t p n [rd]

/-! ### Transfers whose address is a device register -/

/-- `t` differs from `st` in the registers `written` and the PC, and in what the device access that led to `dev` changed. -/
def OnlyDevice (st dev t : State) (written : List RegNum) : Prop :=
  RegistersKept st t written ∧ t.cpsr = st.cpsr ∧ t.spsr = st.spsr ∧ MemoryKept st t ∧ DevicesKept dev t
    ∧ t.freeIdx = dev.freeIdx ∧ t.userBankLdm = st.userBankLdm

/-- The transfer ends in the Data Abort that the access led to, in state `dev` (R434, R478): the base is the old or the
written-back value (R211), and no other register, no memory and no device changes but for the access. -/
def AbortsAt (i : Instr) (st dev : State) (m : Address) (rn : RegNum) : Prop :=
  ∃ s1 t, exec i st = .next t ∧ Entered s1 t .abort (st.pc + 8) 0x10 false ∧ s1.cpsr = st.cpsr ∧ s1.spsr = st.spsr
    ∧ MemoryKept st s1 ∧ DevicesKept dev s1 ∧ RegistersKept st s1 (m.written rn)
    ∧ ∀ v, m.wb = some v → s1.regIn st.mode rn = st.reg rn ∨ s1.regIn st.mode rn = v

/-- A load whose address is a device register (R75, R76, R211): a whole aligned word goes through the register's read, and
what that gives or does is what the load gives or does; any other access stops. -/
def LoadsDevice (i : Instr) (st : State) (n : Nat) (m : Address) (rn rd : RegNum) : Prop :=
  Ready i st → ∀ p, remap st.sys.memmap m.addr = some p → (regionOf p).kind = .device →
    (n ≠ 4 ∨ p % 4 ≠ 0 → exec i st = .fault .partialPeripheralAccess)
    ∧ (n = 4 → p % 4 = 0 →
      (∀ f, memRead m.addr .word st = .stop f → exec i st = .fault f)
      ∧ (∀ dev, memRead m.addr .word st = .abort dev → AbortsAt i st dev m rn)
      ∧ (∀ x dev, memRead m.addr .word st = .ok x dev →
        (rd ≠ 15 → st.pc ≠ 0xFFFFFFFC →
          ∃ t, exec i st = .next t ∧ t.reg rd = x ∧ (∀ v, m.wb = some v → t.reg rn = v) ∧ t.pc = st.pc + 4
            ∧ OnlyDevice st dev t (rd :: m.written rn))
        ∧ (rd = 15 → x.extractLsb' 0 2 = 0 →
          ∃ t, exec i st = .next t ∧ t.pc = x ∧ (∀ v, m.wb = some v → t.reg rn = v)
            ∧ OnlyDevice st dev t (m.written rn))
        ∧ (rd = 15 → x.extractLsb' 0 2 ≠ 0 → exec i st = .fault .misalignedPc)))

/-- A store whose address is a device register (R75, R77, R211): a whole aligned word goes through the register's write. -/
def StoresDevice (i : Instr) (st : State) (n : Nat) (m : Address) (rn : RegNum) (v : Word) : Prop :=
  Ready i st → ∀ p, remap st.sys.memmap m.addr = some p → (regionOf p).kind = .device →
    (n ≠ 4 ∨ p % 4 ≠ 0 → exec i st = .fault .partialPeripheralAccess)
    ∧ (n = 4 → p % 4 = 0 →
      (∀ f, memWrite m.addr .word v st = .stop f → exec i st = .fault f)
      ∧ (∀ dev, memWrite m.addr .word v st = .abort dev → AbortsAt i st dev m rn)
      ∧ (∀ dev, memWrite m.addr .word v st = .ok () dev → st.pc ≠ 0xFFFFFFFC →
        ∃ t, exec i st = .next t ∧ (∀ b, m.wb = some b → t.reg rn = b) ∧ t.pc = st.pc + 4
          ∧ OnlyDevice st dev t (m.written rn)))

/-- A swap with a device register (R226, R227, R75): the register's read, then its write. -/
def SwapsDevice (i : Instr) (st : State) (n : Nat) (addr : Word) (rd : RegNum) (v : Word) : Prop :=
  Ready i st → ∀ p, remap st.sys.memmap addr = some p → (regionOf p).kind = .device →
    (n ≠ 4 ∨ p % 4 ≠ 0 → exec i st = .fault .partialPeripheralAccess)
    ∧ (n = 4 → p % 4 = 0 →
      (∀ f, memRead addr .word st = .stop f → exec i st = .fault f)
      ∧ (∀ dev, memRead addr .word st = .abort dev → AbortsAt i st dev { addr := addr, wb := none } rd)
      ∧ (∀ x mid, memRead addr .word st = .ok x mid →
        (∀ f, memWrite addr .word v mid = .stop f → exec i st = .fault f)
        ∧ (∀ dev, memWrite addr .word v mid = .ok () dev → st.pc ≠ 0xFFFFFFFC →
          ∃ t, exec i st = .next t ∧ t.reg rd = x ∧ t.pc = st.pc + 4 ∧ OnlyDevice st dev t [rd])))

/-! ### Transfers at any address that is no reserved one -/

/-- A load of `n` bytes into `rd`: from a memory, or from a device register. -/
def Loads (i : Instr) (st : State) (n : Nat) (m : Address) (rn rd : RegNum) (value : Nat → Word) : Prop :=
  LoadsMemory i st n m rn rd value ∧ LoadsDevice i st n m rn rd

/-- A store of the low `n` bytes of `v`: to a RAM, or to a device register. -/
def Stores (i : Instr) (st : State) (n : Nat) (m : Address) (rn : RegNum) (v : Word) : Prop :=
  StoresMemory i st n m rn v ∧ StoresDevice i st n m rn v

/-- A swap of `n` bytes: with a RAM, or with a device register. -/
def Swaps (i : Instr) (st : State) (n : Nat) (addr : Word) (rd : RegNum) (value : Nat → Word) (v : Word) : Prop :=
  SwapsMemory i st n addr rd value v ∧ SwapsDevice i st n addr rd v

/-- An instruction whose effect is to take an exception (R436). -/
def Takes (i : Instr) (st : State) (m : Mode) (ret vector : Word) (f : Bool) : Prop :=
  Ready i st → ∃ t, exec i st = .next t ∧ Entered st t m ret vector f

/-- `i` decodes back from the word it encodes to, whatever bytes follow (R120 to R146). -/
def RoundTrips (i : Instr) : Prop :=
  i.wellFormed = true → ∃ w, encodeWord i = some w ∧ ∀ rest, decodeBytes (wordBytes w ++ rest) = .ok (i, rest)

end Sys2Proof.Machine
end

