-- ==== Sys2Proof/Certificates/Slice0/Obligations.lean ====
section
/-! DEFINITION. The statements for the provers, in the terms of Sys2Proof/Safety.lean. Each docstring says which rules of the
spec its statement formalises. -/
open Sys2Proof Sys2Proof.Machine

/-- Data processing: decode of encode is the instruction (30_encoding.md R123, 30_encoding.md R124, 30_encoding.md R125, 30_encoding.md R126, 30_encoding.md R127, 30_encoding.md R128). -/
def Obligations.RoundTripDataProcessing : Prop :=
  ∀ (c : Cond) (s : Bool) (rn rd : RegNum) (imm : RotImm) (si : ShiftImm) (sr : ShiftReg),
  RoundTrips (.andImm c s rn rd imm)
    ∧ RoundTrips (.andShiftImm c s rn rd si)
    ∧ RoundTrips (.andShiftReg c s rn rd sr)
    ∧ RoundTrips (.eorImm c s rn rd imm)
    ∧ RoundTrips (.eorShiftImm c s rn rd si)
    ∧ RoundTrips (.eorShiftReg c s rn rd sr)
    ∧ RoundTrips (.subImm c s rn rd imm)
    ∧ RoundTrips (.subShiftImm c s rn rd si)
    ∧ RoundTrips (.subShiftReg c s rn rd sr)
    ∧ RoundTrips (.rsbImm c s rn rd imm)
    ∧ RoundTrips (.rsbShiftImm c s rn rd si)
    ∧ RoundTrips (.rsbShiftReg c s rn rd sr)
    ∧ RoundTrips (.addImm c s rn rd imm)
    ∧ RoundTrips (.addShiftImm c s rn rd si)
    ∧ RoundTrips (.addShiftReg c s rn rd sr)
    ∧ RoundTrips (.adcImm c s rn rd imm)
    ∧ RoundTrips (.adcShiftImm c s rn rd si)
    ∧ RoundTrips (.adcShiftReg c s rn rd sr)
    ∧ RoundTrips (.sbcImm c s rn rd imm)
    ∧ RoundTrips (.sbcShiftImm c s rn rd si)
    ∧ RoundTrips (.sbcShiftReg c s rn rd sr)
    ∧ RoundTrips (.rscImm c s rn rd imm)
    ∧ RoundTrips (.rscShiftImm c s rn rd si)
    ∧ RoundTrips (.rscShiftReg c s rn rd sr)
    ∧ RoundTrips (.orrImm c s rn rd imm)
    ∧ RoundTrips (.orrShiftImm c s rn rd si)
    ∧ RoundTrips (.orrShiftReg c s rn rd sr)
    ∧ RoundTrips (.bicImm c s rn rd imm)
    ∧ RoundTrips (.bicShiftImm c s rn rd si)
    ∧ RoundTrips (.bicShiftReg c s rn rd sr)
    ∧ RoundTrips (.movImm c s rd imm)
    ∧ RoundTrips (.movShiftImm c s rd si)
    ∧ RoundTrips (.movShiftReg c s rd sr)
    ∧ RoundTrips (.mvnImm c s rd imm)
    ∧ RoundTrips (.mvnShiftImm c s rd si)
    ∧ RoundTrips (.mvnShiftReg c s rd sr)
    ∧ RoundTrips (.tstImm c rn imm)
    ∧ RoundTrips (.tstShiftImm c rn si)
    ∧ RoundTrips (.tstShiftReg c rn sr)
    ∧ RoundTrips (.teqImm c rn imm)
    ∧ RoundTrips (.teqShiftImm c rn si)
    ∧ RoundTrips (.teqShiftReg c rn sr)
    ∧ RoundTrips (.cmpImm c rn imm)
    ∧ RoundTrips (.cmpShiftImm c rn si)
    ∧ RoundTrips (.cmpShiftReg c rn sr)
    ∧ RoundTrips (.cmnImm c rn imm)
    ∧ RoundTrips (.cmnShiftImm c rn si)
    ∧ RoundTrips (.cmnShiftReg c rn sr)

/-- Multiplies, swaps, status and branch instructions: decode of encode is the instruction (30_encoding.md R123, 30_encoding.md R129, 30_encoding.md R130, 30_encoding.md R131, 30_encoding.md R132, 30_encoding.md R136, 30_encoding.md R137, 30_encoding.md R143, 30_encoding.md R144). The model's choice or reading: log entries 6, 37. -/
def Obligations.RoundTripMultiplyStatusBranch : Prop :=
  ∀ (c : Cond) (s : Bool) (rd rn rs rm : RegNum) (mask : BitVec 4) (imm : RotImm) (off : BitVec 24),
  RoundTrips (.mul c s rd rs rm)
    ∧ RoundTrips (.mla c s rd rn rs rm)
    ∧ RoundTrips (.umull c s rd rn rs rm)
    ∧ RoundTrips (.umlal c s rd rn rs rm)
    ∧ RoundTrips (.smull c s rd rn rs rm)
    ∧ RoundTrips (.smlal c s rd rn rs rm)
    ∧ RoundTrips (.swp c rn rd rm)
    ∧ RoundTrips (.swpb c rn rd rm)
    ∧ RoundTrips (.mrs c s rd)
    ∧ RoundTrips (.msrReg c s mask rm)
    ∧ RoundTrips (.msrImm c s mask imm)
    ∧ RoundTrips (.b c off)
    ∧ RoundTrips (.bl c off)
    ∧ RoundTrips (.bx c rm)
    ∧ RoundTrips (.blxReg c rm)
    ∧ RoundTrips (.blxImm s off)

/-- Loads and stores: decode of encode is the instruction (30_encoding.md R123, 30_encoding.md R133, 30_encoding.md R134, 30_encoding.md R135). -/
def Obligations.RoundTripTransfers : Prop :=
  ∀ (c : Cond) (p u s w : Bool) (rn rd rm : RegNum) (i8 : BitVec 8) (i12 : BitVec 12) (off : ShiftImm) (list : BitVec 16),
  RoundTrips (.ldrhImmPre c u w rn rd i8)
    ∧ RoundTrips (.ldrhImmPost c u rn rd i8)
    ∧ RoundTrips (.ldrhRegPre c u w rn rd rm)
    ∧ RoundTrips (.ldrhRegPost c u rn rd rm)
    ∧ RoundTrips (.strhImmPre c u w rn rd i8)
    ∧ RoundTrips (.strhImmPost c u rn rd i8)
    ∧ RoundTrips (.strhRegPre c u w rn rd rm)
    ∧ RoundTrips (.strhRegPost c u rn rd rm)
    ∧ RoundTrips (.ldrsbImmPre c u w rn rd i8)
    ∧ RoundTrips (.ldrsbImmPost c u rn rd i8)
    ∧ RoundTrips (.ldrsbRegPre c u w rn rd rm)
    ∧ RoundTrips (.ldrsbRegPost c u rn rd rm)
    ∧ RoundTrips (.ldrshImmPre c u w rn rd i8)
    ∧ RoundTrips (.ldrshImmPost c u rn rd i8)
    ∧ RoundTrips (.ldrshRegPre c u w rn rd rm)
    ∧ RoundTrips (.ldrshRegPost c u rn rd rm)
    ∧ RoundTrips (.ldrImmPre c u w rn rd i12)
    ∧ RoundTrips (.ldrImmPost c u rn rd i12)
    ∧ RoundTrips (.ldrRegPre c u w rn rd off)
    ∧ RoundTrips (.ldrRegPost c u rn rd off)
    ∧ RoundTrips (.strImmPre c u w rn rd i12)
    ∧ RoundTrips (.strImmPost c u rn rd i12)
    ∧ RoundTrips (.strRegPre c u w rn rd off)
    ∧ RoundTrips (.strRegPost c u rn rd off)
    ∧ RoundTrips (.ldrbImmPre c u w rn rd i12)
    ∧ RoundTrips (.ldrbImmPost c u rn rd i12)
    ∧ RoundTrips (.ldrbRegPre c u w rn rd off)
    ∧ RoundTrips (.ldrbRegPost c u rn rd off)
    ∧ RoundTrips (.strbImmPre c u w rn rd i12)
    ∧ RoundTrips (.strbImmPost c u rn rd i12)
    ∧ RoundTrips (.strbRegPre c u w rn rd off)
    ∧ RoundTrips (.strbRegPost c u rn rd off)
    ∧ RoundTrips (.ldm c p u s w rn list)
    ∧ RoundTrips (.stm c p u s w rn list)

/-- Coprocessor and exception instructions and the undefined spaces: decode of encode is the instruction (30_encoding.md R123, 30_encoding.md R138, 30_encoding.md R139, 30_encoding.md R140, 30_encoding.md R141, 30_encoding.md R142, 30_encoding.md R146). The model's choice or reading: log entry 6. -/
def Obligations.RoundTripCoprocessorAndExceptions : Prop :=
  ∀ (c : Cond) (p u n w : Bool) (rn rd : RegNum) (op1 crn crd cp crm lo : BitVec 4) (k1 op2 : BitVec 3) (off : BitVec 8)
    (imm : BitVec 24) (half : BitVec 16) (hi : BitVec 20),
  RoundTrips (.cdp c op1 crn crd cp op2 crm)
    ∧ RoundTrips (.ldc c p u n w rn crd cp off)
    ∧ RoundTrips (.stc c p u n w rn crd cp off)
    ∧ RoundTrips (.mcr c k1 crn rd cp op2 crm)
    ∧ RoundTrips (.mrc c k1 crn rd cp op2 crm)
    ∧ RoundTrips (.swi c imm)
    ∧ RoundTrips (.bkpt half)
    ∧ RoundTrips (.undefMem c hi lo)
    ∧ RoundTrips (.undefMsr c n hi)

/-- A word that decodes is the word its instruction encodes to (30_encoding.md R120, 30_encoding.md R123, 30_encoding.md R149, 49_assembler_and_pseudo.md R380). -/
def Obligations.DecodingIsInjective : Prop :=
  ∀ (w : Word) (i : Instr), decodeWord w = .ok i → encodeWord i = some w ∧ i.isPseudo = false

/-- The reset state has the invariants and the reset values the spec gives (70_reset_and_hazards.md R631, 70_reset_and_hazards.md R632, 70_reset_and_hazards.md R633, 70_reset_and_hazards.md R635, 10_state.md R43, 61_platform_devices.md R546). The model's choice or reading: log entry 12. -/
def Obligations.ResetIsLegal : Prop :=
  State.reset.legal = true ∧ State.reset.reservedClear = true ∧ State.reset.mode = .supervisor
    ∧ State.reset.thumb = false ∧ State.reset.irqDisabled = true ∧ State.reset.fiqDisabled = true ∧ State.reset.pc = 0
    ∧ State.reset.power = .normal ∧ State.reset.sramPending = none ∧ State.reset.vic.inService = 0
    ∧ State.reset.vic.intEnable = 0 ∧ State.reset.vic.intSelect = 0 ∧ State.reset.vic.softInt = 0
    ∧ State.reset.vic.protection = false ∧ State.reset.vic.swPriorityMask = 0xFFFF ∧ State.reset.vic.address = 0
    ∧ (∀ n : Fin 32, State.reset.vic.vectAddr[n] = 0 ∧ State.reset.vic.vectPriority[n] = 15)
    ∧ State.reset.ext.extint = 0 ∧ State.reset.ext.intwake = 0 ∧ State.reset.ext.extmode = 0
    ∧ State.reset.ext.extpolar = 0 ∧ State.reset.sys.mamcr = 0 ∧ State.reset.sys.mamtim = 7
    ∧ State.reset.sys.memmap = 1 ∧ State.reset.sys.pllcon = 0 ∧ State.reset.sys.pllConEff = 0
    ∧ State.reset.sys.pllcfg.extractLsb' 0 15 = 0 ∧ State.reset.sys.pllCfgEff.extractLsb' 0 15 = 0
    ∧ State.reset.sys.feedArmed = false ∧ State.reset.sys.plock = false ∧ State.reset.sys.oscReady = false
    ∧ State.reset.sys.pcon = 0 ∧ State.reset.sys.pconp = 0x04280FFE ∧ State.reset.sys.cclkcfg = 0
    ∧ State.reset.sys.usbclkcfg = 0 ∧ State.reset.sys.clksrcsel = 0 ∧ State.reset.sys.scs = 0
    ∧ State.reset.sys.irctrim = 0xA0 ∧ State.reset.sys.pclksel0 = 0 ∧ State.reset.sys.pclksel1 = 0
    ∧ (∀ n : Fin 11, n ≠ 10 → State.reset.pinConn.pinsel[n] = 0) ∧ State.reset.pinConn.pinsel[10] &&& 0xFFFFFFF7 = 0
    ∧ (∀ n : Fin 10, State.reset.pinConn.pinmode[n] = 0)
    ∧ State.reset.env.pinPrev = State.reset.env.pins
    ∧ (∀ e ∈ ([(0x000, 0x3), (0x008, 0x0), (0x020, 0x6), (0x024, 0x0), (0x028, 0x0), (0x030, 0x0F), (0x034, 0x0F),
          (0x038, 0x0F), (0x03C, 0x0F), (0x040, 0x0F), (0x044, 0x0F), (0x048, 0x1F), (0x04C, 0x1F), (0x050, 0x1F),
          (0x054, 0x0F), (0x058, 0x0F), (0x880, 0x0)] : List (Word × Word)),
        memRead (0xFFE08000 + e.1) .word State.reset = .ok e.2 State.reset)
    ∧ (∀ n ∈ ([0, 1, 2, 3] : List Word),
        ∀ e ∈ ([(0x100, 0x0), (0x104, 0x303), (0x200, 0x0), (0x204, 0x0), (0x208, 0x0), (0x20C, 0x0), (0x210, 0x1F),
          (0x214, 0x1F), (0x218, 0x0F)] : List (Word × Word)),
        memRead (0xFFE08000 + e.1 + 0x20 * n) .word State.reset = .ok e.2 State.reset)
    ∧ ∃ x t, memRead 0xFFE08004 .word State.reset = .ok x t ∧ x.extractLsb' 0 3 = 5

/-- Every step keeps the invariant of the machine (10_state.md R27, 10_state.md R35, 20_memory.md R92, 60_exceptions.md R492, 92_eei_decisions.md D26). -/
def Obligations.StepKeepsLegality : Prop :=
  ∀ s t : State, s.legal = true → step s = .next t → t.legal = true

/-- Every step keeps the reserved register bits unwritten (60_exceptions.md R465, 92_eei_decisions.md D26, 62_pin_connect.md R622, 61_platform_devices.md R552, 61_platform_devices.md R566). -/
def Obligations.StepKeepsReservedBitsClear : Prop :=
  ∀ s t : State, s.reservedClear = true → step s = .next t → t.reservedClear = true

/-- No step that stays in User mode changes what User mode may not (45_psr_access.md R334, 60_exceptions.md R444, 10_state.md R38, 60_exceptions.md R436, 20_memory.md R87). -/
def Obligations.UserModeIsConfined : Prop :=
  ∀ s t : State, s.modeLegal = true → s.mode = .user → step s = .next t →
    (t.mode = .user →
      t.cpsr.extractLsb' 6 18 = s.cpsr.extractLsb' 6 18 ∧ t.cpsr.extractLsb' 0 5 = s.cpsr.extractLsb' 0 5
        ∧ t.spsr = s.spsr ∧ ∀ k : Fin 30, 15 ≤ k.val → t.regs[k] = s.regs[k])
    ∧ (t.mode ≠ .user →
      t.irqDisabled = true ∧ t.thumb = false ∧ t.mode ≠ .system
        ∧ t.pc ∈ ([0x00, 0x04, 0x08, 0x0C, 0x10, 0x18, 0x1C] : List Word))

/-- No step changes a byte of the Flash or of the boot block (20_memory.md R77, 20_memory.md R90, 20_memory.md R91, 92_eei_decisions.md D12). -/
def Obligations.FlashAndBootAreNeverWritten : Prop :=
  ∀ s t : State, s.pendingInSram = true → step s = .next t → ∀ a : Nat,
    (regionOf a = .flash ∨ regionOf a = .boot → t.byteAt a = s.byteAt a) ∧ (¬ plainRam a → t.mem.get a = s.mem.get a)

/-- Words written out from the encodings decode to their instructions (42_data_processing.md R254, 41_load_store.md R203, 41_load_store.md R207, 41_load_store.md R224, 43_multiply.md R293, 44_branch.md R313, 45_psr_access.md R331, 47_exception_generating.md R361, 60_exceptions.md R438). -/
def Obligations.SampleWordsDecode : Prop :=
  decodeTableWord 32 0xE1A0F00E = some (.movShiftImm .al false 15 { rm := 14, kind := .lsl, amount := 0 })
    ∧ decodeTableWord 32 0xE25EF004 = some (.subImm .al true 14 15 { rot := 0, imm8 := 4 })
    ∧ decodeTableWord 32 0xE5910008 = some (.ldrImmPre .al true false 1 0 8)
    ∧ decodeTableWord 32 0xE1D100B2 = some (.ldrhImmPre .al true false 1 0 2)
    ∧ decodeTableWord 32 0xE92D5FF1 = some (.stm .al true false false true 13 0x5FF1)
    ∧ decodeTableWord 32 0xE0000291 = some (.mul .al false 0 2 1)
    ∧ decodeTableWord 32 0xEB000002 = some (.bl .al 2)
    ∧ decodeTableWord 32 0xE10F0000 = some (.mrs .al false 0)
    ∧ decodeTableWord 32 0xEF123456 = some (.swi .al 0x123456)

/-- A step runs the instruction that the bytes at the PC decode to (00_scope.md R12, 20_memory.md R78, 20_memory.md R71, 70_reset_and_hazards.md R652). The model's choice or reading: log entry 35. -/
def Obligations.StepRunsTheDecodedInstruction : Prop :=
  (∀ (s s1 : State) (p : Nat) (i : Instr), boundary s = .run s1 → s1.thumb = false →
    remap s1.sys.memmap s1.pc = some p → plainMemory p → p % 4 = 0 → decodeWord (s1.wordAt p) = .ok i →
    (bankHazard i s1 = false → step s = exec i { s1 with userBankLdm := false })
    ∧ (bankHazard i s1 = true → step s = .refused .bankedRegisterAfterUserLdm))
  ∧ ∀ (s : State) (c : Cond) (sb p u w : Bool) (rn rd rs rm : RegNum) (imm imm2 : RotImm) (si : ShiftImm)
      (sr : ShiftReg) (i8 : BitVec 8) (i12 : BitVec 12) (list : BitVec 16) (off : BitVec 24) (op1 crn crd cp crm : BitVec 4)
      (k1 op2 : BitVec 3) (hi : BitVec 20) (value : Word),
    let met : Option Cond → List RegNum → Bool := fun cond names =>
      s.userBankLdm && (cond.all fun c => s.passes c)
        && names.any fun r => decide (r = 13 ∨ r = 14 ∨ (s.mode = .fiq ∧ 8 ≤ r.toNat ∧ r.toNat ≤ 12))
    (∀ i ∈ ([.andImm c sb rn rd imm, .eorImm c sb rn rd imm, .subImm c sb rn rd imm, .rsbImm c sb rn rd imm, .addImm c sb rn rd imm,
          .adcImm c sb rn rd imm, .sbcImm c sb rn rd imm, .rscImm c sb rn rd imm, .orrImm c sb rn rd imm, .bicImm c sb rn rd imm] : List Instr),
        bankHazard i s = met (some c) [rn, rd])
      ∧ (∀ i ∈ ([.andShiftImm c sb rn rd si, .eorShiftImm c sb rn rd si, .subShiftImm c sb rn rd si, .rsbShiftImm c sb rn rd si, .addShiftImm c sb rn rd si,
          .adcShiftImm c sb rn rd si, .sbcShiftImm c sb rn rd si, .rscShiftImm c sb rn rd si, .orrShiftImm c sb rn rd si, .bicShiftImm c sb rn rd si] : List Instr),
        bankHazard i s = met (some c) [rn, rd, si.rm])
      ∧ (∀ i ∈ ([.andShiftReg c sb rn rd sr, .eorShiftReg c sb rn rd sr, .subShiftReg c sb rn rd sr, .rsbShiftReg c sb rn rd sr, .addShiftReg c sb rn rd sr,
          .adcShiftReg c sb rn rd sr, .sbcShiftReg c sb rn rd sr, .rscShiftReg c sb rn rd sr, .orrShiftReg c sb rn rd sr, .bicShiftReg c sb rn rd sr] : List Instr),
        bankHazard i s = met (some c) [rn, rd, sr.rm, sr.rs])
      ∧ (∀ i ∈ ([.movImm c sb rd imm, .mvnImm c sb rd imm, .mrs c sb rd, .mcr c k1 crn rd cp op2 crm, .mrc c k1 crn rd cp op2 crm,
          .adr c rd u imm, .adrl c rd u imm imm2, .ldrPseudo c rd value u i12] : List Instr),
        bankHazard i s = met (some c) [rd])
      ∧ (∀ i ∈ ([.movShiftImm c sb rd si, .mvnShiftImm c sb rd si] : List Instr),
        bankHazard i s = met (some c) [rd, si.rm])
      ∧ (∀ i ∈ ([.movShiftReg c sb rd sr, .mvnShiftReg c sb rd sr] : List Instr),
        bankHazard i s = met (some c) [rd, sr.rm, sr.rs])
      ∧ (∀ i ∈ ([.tstImm c rn imm, .teqImm c rn imm, .cmpImm c rn imm, .cmnImm c rn imm,
          .ldc c p u w sb rn crd cp i8, .stc c p u w sb rn crd cp i8] : List Instr),
        bankHazard i s = met (some c) [rn])
      ∧ (∀ i ∈ ([.tstShiftImm c rn si, .teqShiftImm c rn si, .cmpShiftImm c rn si, .cmnShiftImm c rn si] : List Instr),
        bankHazard i s = met (some c) [rn, si.rm])
      ∧ (∀ i ∈ ([.tstShiftReg c rn sr, .teqShiftReg c rn sr, .cmpShiftReg c rn sr, .cmnShiftReg c rn sr] : List Instr),
        bankHazard i s = met (some c) [rn, sr.rm, sr.rs])
      ∧ (∀ i ∈ ([.mul c sb rd rs rm] : List Instr),
        bankHazard i s = met (some c) [rd, rs, rm])
      ∧ (∀ i ∈ ([.mla c sb rd rn rs rm, .umull c sb rd rn rs rm, .umlal c sb rd rn rs rm, .smull c sb rd rn rs rm,
          .smlal c sb rd rn rs rm] : List Instr),
        bankHazard i s = met (some c) [rd, rn, rs, rm])
      ∧ (∀ i ∈ ([.ldrhImmPre c u w rn rd i8, .strhImmPre c u w rn rd i8, .ldrsbImmPre c u w rn rd i8, .ldrshImmPre c u w rn rd i8,
          .ldrhImmPost c u rn rd i8, .strhImmPost c u rn rd i8, .ldrsbImmPost c u rn rd i8, .ldrshImmPost c u rn rd i8,
          .ldrImmPre c u w rn rd i12, .strImmPre c u w rn rd i12, .ldrbImmPre c u w rn rd i12, .strbImmPre c u w rn rd i12,
          .ldrImmPost c u rn rd i12, .strImmPost c u rn rd i12, .ldrbImmPost c u rn rd i12, .strbImmPost c u rn rd i12] : List Instr),
        bankHazard i s = met (some c) [rn, rd])
      ∧ (∀ i ∈ ([.ldrhRegPre c u w rn rd rm, .strhRegPre c u w rn rd rm, .ldrsbRegPre c u w rn rd rm, .ldrshRegPre c u w rn rd rm,
          .ldrhRegPost c u rn rd rm, .strhRegPost c u rn rd rm, .ldrsbRegPost c u rn rd rm, .ldrshRegPost c u rn rd rm,
          .swp c rn rd rm, .swpb c rn rd rm] : List Instr),
        bankHazard i s = met (some c) [rn, rd, rm])
      ∧ (∀ i ∈ ([.ldrRegPre c u w rn rd si, .strRegPre c u w rn rd si, .ldrbRegPre c u w rn rd si, .strbRegPre c u w rn rd si,
          .ldrRegPost c u rn rd si, .strRegPost c u rn rd si, .ldrbRegPost c u rn rd si, .strbRegPost c u rn rd si] : List Instr),
        bankHazard i s = met (some c) [rn, rd, si.rm])
      ∧ (∀ i ∈ ([.ldm c p u sb w rn list, .stm c p u sb w rn list] : List Instr),
        bankHazard i s = met (some c) (rn :: ((List.range 15).filter fun k => list.getLsbD k).map fun k => BitVec.ofNat 4 k))
      ∧ (∀ i ∈ ([.bx c rm, .blxReg c rm, .msrReg c sb crn rm] : List Instr),
        bankHazard i s = met (some c) [rm])
      ∧ (∀ i ∈ ([.b c off, .bl c off, .swi c off, .msrImm c sb crn imm, .cdp c op1 crn crd cp op2 crm,
          .undefMem c hi crn, .undefMsr c sb hi] : List Instr),
        bankHazard i s = met (some c) [])
      ∧ bankHazard (.blxImm sb off) s = met none [] ∧ bankHazard (.bkpt list) s = met none []
      ∧ bankHazard .nop s = met none [0]

/-- A fetch from a peripheral or unused address takes a Prefetch Abort; Thumb state is refused (20_memory.md R86, 60_exceptions.md R433, 60_exceptions.md R436, 48_thumb.md R372). The model's choice or reading: log entry 32. -/
def Obligations.FetchOutsideMemoryAborts : Prop :=
  ∀ (s s1 : State), boundary s = .run s1 →
    (s1.thumb = true → step s = .refused .thumbState)
    ∧ (∀ p, s1.thumb = false → remap s1.sys.memmap s1.pc = some p → ¬ plainMemory p →
        ∃ t, step s = .next t ∧ Entered s1 t .abort (s1.pc + 4) 0x0C false)

/-- An instruction whose condition fails only advances the PC (40_conditions_and_operand2.md R170, 00_scope.md R12, 10_state.md R29, 30_encoding.md R150). -/
def Obligations.FailedConditionOnlyAdvances : Prop :=
  (∀ (i : Instr) (c : Cond) (s : State), i.isPseudo = false → i.cond? = some c → s.passes c = false →
      (s.pc ≠ 0xFFFFFFFC → exec i s = .next { s with pc := s.pc + 4 })
      ∧ (s.pc = 0xFFFFFFFC → exec i s = .fault .pcOverflow))
    ∧ ∀ i : Instr, i.cond? = none ↔ (∃ h off, i = .blxImm h off) ∨ (∃ k, i = .bkpt k) ∨ i = .nop

/-- Exactly the operand combinations the spec forbids are ill formed, and are refused once the condition passes (70_reset_and_hazards.md R651, 40_conditions_and_operand2.md R185, 43_multiply.md R291, 41_load_store.md R201, 41_load_store.md R202, 41_load_store.md R205, 41_load_store.md R222, 41_load_store.md R223, 41_load_store.md R224, 41_load_store.md R226, 45_psr_access.md R331, 45_psr_access.md R332). The model's choice or reading: log entries 10, 37. -/
def Obligations.RestrictedOperandsAreRefused : Prop :=
  (∀ (i : Instr) (c : Cond) (why : IllFormed) (s : State), i.cond? = some c → s.passes c = true →
    i.illFormed = some why → exec i s = .refused (.unpredictable why))
  ∧ ∀ (s : State) (c : Cond) (sb p u w : Bool) (rn rd rs rm : RegNum) (imm imm2 : RotImm) (si : ShiftImm)
      (sr : ShiftReg) (i8 : BitVec 8) (i12 : BitVec 12) (list : BitVec 16) (off : BitVec 24) (op1 crn crd cp crm : BitVec 4)
      (k1 op2 : BitVec 3) (hi : BitVec 20) (value : Word), s.passes c = true →
    let limited : Instr → Prop → Prop := fun i bad =>
      (i.wellFormed = true ↔ ¬ bad) ∧ (bad → ∃ why, exec i s = .refused (.unpredictable why))
    (∀ i ∈ ([.andShiftReg c sb rn rd sr, .eorShiftReg c sb rn rd sr, .subShiftReg c sb rn rd sr, .rsbShiftReg c sb rn rd sr, .addShiftReg c sb rn rd sr,
          .adcShiftReg c sb rn rd sr, .sbcShiftReg c sb rn rd sr, .rscShiftReg c sb rn rd sr, .orrShiftReg c sb rn rd sr, .bicShiftReg c sb rn rd sr] : List Instr),
        limited i (rn = 15 ∨ rd = 15 ∨ sr.rm = 15 ∨ sr.rs = 15))
      ∧ (∀ i ∈ ([.movShiftReg c sb rd sr, .mvnShiftReg c sb rd sr] : List Instr),
        limited i (rd = 15 ∨ sr.rm = 15 ∨ sr.rs = 15))
      ∧ (∀ i ∈ ([.tstShiftReg c rn sr, .teqShiftReg c rn sr, .cmpShiftReg c rn sr, .cmnShiftReg c rn sr] : List Instr),
        limited i (rn = 15 ∨ sr.rm = 15 ∨ sr.rs = 15))
      ∧ limited (.mul c sb rd rs rm) (rd = 15 ∨ rs = 15 ∨ rm = 15 ∨ rd = rm)
      ∧ limited (.mla c sb rd rn rs rm) (rd = 15 ∨ rn = 15 ∨ rs = 15 ∨ rm = 15 ∨ rd = rm)
      ∧ (∀ i ∈ ([.umull c sb rd rn rs rm, .umlal c sb rd rn rs rm, .smull c sb rd rn rs rm, .smlal c sb rd rn rs rm] : List Instr),
        limited i (rd = 15 ∨ rn = 15 ∨ rs = 15 ∨ rm = 15 ∨ rd = rn ∨ rd = rm ∨ rn = rm))
      ∧ (∀ i ∈ ([.swp c rn rd rm, .swpb c rn rd rm] : List Instr),
        limited i (rn = 15 ∨ rd = 15 ∨ rm = 15 ∨ rn = rm ∨ rn = rd))
      ∧ (∀ i ∈ ([.ldrImmPre c u w rn rd i12, .strImmPre c u w rn rd i12] : List Instr),
        limited i (w = true ∧ (rn = 15 ∨ rn = rd)))
      ∧ (∀ i ∈ ([.ldrImmPost c u rn rd i12, .strImmPost c u rn rd i12] : List Instr),
        limited i (rn = 15 ∨ rn = rd))
      ∧ (∀ i ∈ ([.ldrRegPre c u w rn rd si, .strRegPre c u w rn rd si] : List Instr),
        limited i (si.rm = 15 ∨ (w = true ∧ (rn = 15 ∨ rn = rd))))
      ∧ (∀ i ∈ ([.ldrRegPost c u rn rd si, .strRegPost c u rn rd si] : List Instr),
        limited i (si.rm = 15 ∨ rn = 15 ∨ rn = rd))
      ∧ (∀ i ∈ ([.ldrhImmPre c u w rn rd i8, .strhImmPre c u w rn rd i8, .ldrsbImmPre c u w rn rd i8, .ldrshImmPre c u w rn rd i8,
          .ldrbImmPre c u w rn rd i12, .strbImmPre c u w rn rd i12] : List Instr),
        limited i (rd = 15 ∨ (w = true ∧ (rn = 15 ∨ rn = rd))))
      ∧ (∀ i ∈ ([.ldrhImmPost c u rn rd i8, .strhImmPost c u rn rd i8, .ldrsbImmPost c u rn rd i8, .ldrshImmPost c u rn rd i8,
          .ldrbImmPost c u rn rd i12, .strbImmPost c u rn rd i12] : List Instr),
        limited i (rd = 15 ∨ rn = 15 ∨ rn = rd))
      ∧ (∀ i ∈ ([.ldrhRegPre c u w rn rd rm, .strhRegPre c u w rn rd rm, .ldrsbRegPre c u w rn rd rm, .ldrshRegPre c u w rn rd rm] : List Instr),
        limited i (rd = 15 ∨ rm = 15 ∨ (w = true ∧ (rn = 15 ∨ rn = rd))))
      ∧ (∀ i ∈ ([.ldrhRegPost c u rn rd rm, .strhRegPost c u rn rd rm, .ldrsbRegPost c u rn rd rm, .ldrshRegPost c u rn rd rm] : List Instr),
        limited i (rd = 15 ∨ rm = 15 ∨ rn = 15 ∨ rn = rd))
      ∧ (∀ i ∈ ([.ldrbRegPre c u w rn rd si, .strbRegPre c u w rn rd si] : List Instr),
        limited i (rd = 15 ∨ si.rm = 15 ∨ (w = true ∧ (rn = 15 ∨ rn = rd))))
      ∧ (∀ i ∈ ([.ldrbRegPost c u rn rd si, .strbRegPost c u rn rd si] : List Instr),
        limited i (rd = 15 ∨ si.rm = 15 ∨ rn = 15 ∨ rn = rd))
      ∧ limited (.ldm c p u sb w rn list) (list = 0 ∨ rn = 15 ∨ (w = true ∧ list.getLsbD rn.toNat = true)
        ∨ (sb = true ∧ w = true ∧ list.getLsbD 15 = false))
      ∧ limited (.stm c p u sb w rn list) (list = 0 ∨ rn = 15 ∨ (sb = true ∧ w = true)
        ∨ (w = true ∧ list.getLsbD rn.toNat = true ∧ ∃ k, k < rn.toNat ∧ list.getLsbD k = true))
      ∧ limited (.mrs c sb rd) (rd = 15) ∧ limited (.msrReg c sb crn rm) (rm = 15) ∧ limited (.blxReg c rm) (rm = 15)
      ∧ (∀ i ∈ ([.ldc c p u sb w rn crd cp i8, .stc c p u sb w rn crd cp i8] : List Instr),
        limited i (p = false ∧ u = false ∧ w = false))
      ∧ (∀ i ∈ ([.andImm c sb rn rd imm, .eorImm c sb rn rd imm, .subImm c sb rn rd imm, .rsbImm c sb rn rd imm, .addImm c sb rn rd imm,
          .adcImm c sb rn rd imm, .sbcImm c sb rn rd imm, .rscImm c sb rn rd imm, .orrImm c sb rn rd imm, .bicImm c sb rn rd imm,
          .andShiftImm c sb rn rd si, .eorShiftImm c sb rn rd si, .subShiftImm c sb rn rd si, .rsbShiftImm c sb rn rd si, .addShiftImm c sb rn rd si,
          .adcShiftImm c sb rn rd si, .sbcShiftImm c sb rn rd si, .rscShiftImm c sb rn rd si, .orrShiftImm c sb rn rd si, .bicShiftImm c sb rn rd si,
          .movImm c sb rd imm, .mvnImm c sb rd imm, .movShiftImm c sb rd si, .mvnShiftImm c sb rd si,
          .tstImm c rn imm, .teqImm c rn imm, .cmpImm c rn imm, .cmnImm c rn imm,
          .tstShiftImm c rn si, .teqShiftImm c rn si, .cmpShiftImm c rn si, .cmnShiftImm c rn si,
          .b c off, .bl c off, .bx c rm, .blxImm sb off, .msrImm c sb crn imm, .swi c off, .bkpt list, .undefMem c hi crn, .undefMsr c sb hi,
          .cdp c op1 crn crd cp op2 crm, .mcr c k1 crn rd cp op2 crm, .mrc c k1 crn rd cp op2 crm,
          .ldrPseudo c rd value u i12, .adr c rd u imm, .adrl c rd u imm imm2, .nop] : List Instr),
        limited i False)

/-- The condition codes mean what their names say after CMP (40_conditions_and_operand2.md R171, 42_data_processing.md R252, 42_data_processing.md R256). -/
def Obligations.ConditionsAfterCompare : Prop :=
  ∀ a b : Word,
    (condHolds .eq (subResult a b true).flags = true ↔ a = b)
    ∧ (condHolds .cs (subResult a b true).flags = true ↔ b.toNat ≤ a.toNat)
    ∧ (condHolds .hi (subResult a b true).flags = true ↔ b.toNat < a.toNat)
    ∧ (condHolds .ge (subResult a b true).flags = true ↔ b.toInt ≤ a.toInt)
    ∧ (condHolds .gt (subResult a b true).flags = true ↔ b.toInt < a.toInt)
    ∧ (condHolds .mi (subResult a b true).flags = true ↔ (a - b).getLsbD 31 = true)
    ∧ (condHolds .vs (subResult a b true).flags = true
        ↔ a.toInt - b.toInt < -2147483648 ∨ 2147483647 < a.toInt - b.toInt)
    ∧ ∀ f : Flags, condHolds .ne f = !condHolds .eq f ∧ condHolds .cc f = !condHolds .cs f
        ∧ condHolds .ls f = !condHolds .hi f ∧ condHolds .lt f = !condHolds .ge f ∧ condHolds .le f = !condHolds .gt f
        ∧ condHolds .pl f = !condHolds .mi f ∧ condHolds .vc f = !condHolds .vs f ∧ condHolds .al f = true

/-- LSL, LSR, ASR and ROR by every amount: result and carry-out (40_conditions_and_operand2.md R179, 40_conditions_and_operand2.md R180, 40_conditions_and_operand2.md R181, 40_conditions_and_operand2.md R182). -/
def Obligations.ShiftsByAnyAmount : Prop :=
  ∀ (x : Word) (n : Nat) (c : Bool),
    (shiftBy .lsl x n c).value.toNat = x.toNat * 2 ^ n % 2 ^ 32
    ∧ (shiftBy .lsr x n c).value.toNat = x.toNat / 2 ^ n
    ∧ (shiftBy .asr x n c).value.toInt = x.toInt / 2 ^ n
    ∧ (∀ k, k < 32 → (shiftBy .ror x n c).value.getLsbD k = x.getLsbD ((k + n) % 32))
    ∧ (shiftBy .lsl x n c).carry = (if n = 0 then c else if n ≤ 32 then x.getLsbD (32 - n) else false)
    ∧ (shiftBy .lsr x n c).carry = (if n = 0 then c else if n ≤ 32 then x.getLsbD (n - 1) else false)
    ∧ (shiftBy .asr x n c).carry = (if n = 0 then c else if n ≤ 32 then x.getLsbD (n - 1) else x.getLsbD 31)
    ∧ (shiftBy .ror x n c).carry = (if n = 0 then c else x.getLsbD ((n - 1) % 32))
    ∧ shiftByField .lsl x 0 c = shiftBy .lsl x 0 c
    ∧ shiftByField .lsr x 0 c = shiftBy .lsr x 32 c
    ∧ shiftByField .asr x 0 c = shiftBy .asr x 32 c
    ∧ ∀ kind, 0 < n → shiftByField kind x n c = shiftBy kind x n c

/-- Operand 2: the rotated immediate, RRX, and which register, amount and carry a register shift takes (30_encoding.md R126, 40_conditions_and_operand2.md R183, 40_conditions_and_operand2.md R184, 10_state.md R28, 41_load_store.md R201). -/
def Obligations.RotatedImmediateAndRrx : Prop :=
  (∀ (op : RotImm) (c : Bool),
      (∀ k, k < 32 →
        (rotImmShifted op c).value.getLsbD k
          = if (k + 2 * op.rot.toNat) % 32 < 8 then op.imm8.getLsbD ((k + 2 * op.rot.toNat) % 32) else false)
      ∧ (rotImmShifted op c).carry = (if op.rot = 0 then c else (rotImmShifted op c).value.getLsbD 31))
    ∧ ∀ (x : Word) (c : Bool),
      (shiftByField .ror x 0 c).value.getLsbD 31 = c ∧ (shiftByField .ror x 0 c).carry = x.getLsbD 0
      ∧ (∀ k, k < 31 → (shiftByField .ror x 0 c).value.getLsbD k = x.getLsbD (k + 1))
    ∧ ∀ (s : State) (r : RegNum) (si : ShiftImm) (sr : ShiftReg),
      s.readReg r = (if r = 15 then s.pc + 8 else s.regIn s.mode r)
      ∧ shiftImmShifted si s
        = shiftByField si.kind (if si.rm = 15 then s.pc + 8 else s.reg si.rm) si.amount.toNat (s.cpsr.getLsbD 29)
      ∧ (sr.rm ≠ 15 → sr.rs ≠ 15 →
        shiftRegShifted sr s = shiftBy sr.kind (s.reg sr.rm) ((s.reg sr.rs).toNat % 256) (s.cpsr.getLsbD 29))
      ∧ offsetReg si s = (shiftImmShifted si s).value

/-- AND, EOR, ORR, BIC: result, flags, PC destination and frame (42_data_processing.md R266, 42_data_processing.md R267, 42_data_processing.md R268, 42_data_processing.md R269, 42_data_processing.md R251, 42_data_processing.md R252, 42_data_processing.md R253). The model's choice or reading: log entry 38. -/
def Obligations.LogicalOperations : Prop :=
  ∀ (c : Cond) (sb : Bool) (rn rd : RegNum) (imm : RotImm) (si : ShiftImm) (sr : ShiftReg) (s : State),
    let andV : Shifted → Word := fun o => s.readReg rn &&& o.value
    let andF : Shifted → Flags := fun o =>
      { n := (s.readReg rn &&& o.value).getLsbD 31
        z := decide ((s.readReg rn &&& o.value) = 0)
        c := o.carry
        v := s.flags.v }
    let eorV : Shifted → Word := fun o => s.readReg rn ^^^ o.value
    let eorF : Shifted → Flags := fun o =>
      { n := (s.readReg rn ^^^ o.value).getLsbD 31
        z := decide ((s.readReg rn ^^^ o.value) = 0)
        c := o.carry
        v := s.flags.v }
    let orrV : Shifted → Word := fun o => s.readReg rn ||| o.value
    let orrF : Shifted → Flags := fun o =>
      { n := (s.readReg rn ||| o.value).getLsbD 31
        z := decide ((s.readReg rn ||| o.value) = 0)
        c := o.carry
        v := s.flags.v }
    let bicV : Shifted → Word := fun o => s.readReg rn &&& ~~~o.value
    let bicF : Shifted → Flags := fun o =>
      { n := (s.readReg rn &&& ~~~o.value).getLsbD 31
        z := decide ((s.readReg rn &&& ~~~o.value) = 0)
        c := o.carry
        v := s.flags.v }
    Computes (.andImm c sb rn rd imm) s sb rd (andV (rotImmShifted imm s.flags.c)) (andF (rotImmShifted imm s.flags.c))
    ∧ Computes (.andShiftImm c sb rn rd si) s sb rd (andV (shiftImmShifted si s)) (andF (shiftImmShifted si s))
    ∧ Computes (.andShiftReg c sb rn rd sr) s sb rd (andV (shiftRegShifted sr s)) (andF (shiftRegShifted sr s))
    ∧ Computes (.eorImm c sb rn rd imm) s sb rd (eorV (rotImmShifted imm s.flags.c)) (eorF (rotImmShifted imm s.flags.c))
    ∧ Computes (.eorShiftImm c sb rn rd si) s sb rd (eorV (shiftImmShifted si s)) (eorF (shiftImmShifted si s))
    ∧ Computes (.eorShiftReg c sb rn rd sr) s sb rd (eorV (shiftRegShifted sr s)) (eorF (shiftRegShifted sr s))
    ∧ Computes (.orrImm c sb rn rd imm) s sb rd (orrV (rotImmShifted imm s.flags.c)) (orrF (rotImmShifted imm s.flags.c))
    ∧ Computes (.orrShiftImm c sb rn rd si) s sb rd (orrV (shiftImmShifted si s)) (orrF (shiftImmShifted si s))
    ∧ Computes (.orrShiftReg c sb rn rd sr) s sb rd (orrV (shiftRegShifted sr s)) (orrF (shiftRegShifted sr s))
    ∧ Computes (.bicImm c sb rn rd imm) s sb rd (bicV (rotImmShifted imm s.flags.c)) (bicF (rotImmShifted imm s.flags.c))
    ∧ Computes (.bicShiftImm c sb rn rd si) s sb rd (bicV (shiftImmShifted si s)) (bicF (shiftImmShifted si s))
    ∧ Computes (.bicShiftReg c sb rn rd sr) s sb rd (bicV (shiftRegShifted sr s)) (bicF (shiftRegShifted sr s))

/-- MOV, MVN: result, flags, PC destination and frame (42_data_processing.md R254, 42_data_processing.md R255, 42_data_processing.md R251, 42_data_processing.md R252, 42_data_processing.md R253). The model's choice or reading: log entry 38. -/
def Obligations.MoveOperations : Prop :=
  ∀ (c : Cond) (sb : Bool) (rd : RegNum) (imm : RotImm) (si : ShiftImm) (sr : ShiftReg) (s : State),
    let movV : Shifted → Word := fun o => o.value
    let movF : Shifted → Flags := fun o =>
      { n := (o.value).getLsbD 31
        z := decide ((o.value) = 0)
        c := o.carry
        v := s.flags.v }
    let mvnV : Shifted → Word := fun o => ~~~o.value
    let mvnF : Shifted → Flags := fun o =>
      { n := (~~~o.value).getLsbD 31
        z := decide ((~~~o.value) = 0)
        c := o.carry
        v := s.flags.v }
    Computes (.movImm c sb rd imm) s sb rd (movV (rotImmShifted imm s.flags.c)) (movF (rotImmShifted imm s.flags.c))
    ∧ Computes (.movShiftImm c sb rd si) s sb rd (movV (shiftImmShifted si s)) (movF (shiftImmShifted si s))
    ∧ Computes (.movShiftReg c sb rd sr) s sb rd (movV (shiftRegShifted sr s)) (movF (shiftRegShifted sr s))
    ∧ Computes (.mvnImm c sb rd imm) s sb rd (mvnV (rotImmShifted imm s.flags.c)) (mvnF (rotImmShifted imm s.flags.c))
    ∧ Computes (.mvnShiftImm c sb rd si) s sb rd (mvnV (shiftImmShifted si s)) (mvnF (shiftImmShifted si s))
    ∧ Computes (.mvnShiftReg c sb rd sr) s sb rd (mvnV (shiftRegShifted sr s)) (mvnF (shiftRegShifted sr s))

/-- ADD, ADC: result, flags, PC destination and frame (42_data_processing.md R260, 42_data_processing.md R261, 42_data_processing.md R251, 42_data_processing.md R252, 42_data_processing.md R253). The model's choice or reading: log entry 38. -/
def Obligations.AdditionOperations : Prop :=
  ∀ (c : Cond) (sb : Bool) (rn rd : RegNum) (imm : RotImm) (si : ShiftImm) (sr : ShiftReg) (s : State),
    let addV : Shifted → Word := fun o => (s.readReg rn) + o.value
    let addF : Shifted → Flags := fun o =>
      { n := ((s.readReg rn) + o.value).getLsbD 31
        z := decide ((s.readReg rn) + o.value = 0)
        c := decide (2 ^ 32 ≤ (s.readReg rn).toNat + o.value.toNat)
        v := decide ((s.readReg rn).getLsbD 31 = o.value.getLsbD 31 ∧ ((s.readReg rn) + o.value).getLsbD 31 ≠ (s.readReg rn).getLsbD 31) }
    let adcV : Shifted → Word := fun o => (s.readReg rn) + o.value + BitVec.ofNat 32 s.flags.c.toNat
    let adcF : Shifted → Flags := fun o =>
      { n := ((s.readReg rn) + o.value + BitVec.ofNat 32 s.flags.c.toNat).getLsbD 31
        z := decide ((s.readReg rn) + o.value + BitVec.ofNat 32 s.flags.c.toNat = 0)
        c := decide (2 ^ 32 ≤ (s.readReg rn).toNat + o.value.toNat + s.flags.c.toNat)
        v := decide ((s.readReg rn).getLsbD 31 = o.value.getLsbD 31 ∧ ((s.readReg rn) + o.value + BitVec.ofNat 32 s.flags.c.toNat).getLsbD 31 ≠ (s.readReg rn).getLsbD 31) }
    Computes (.addImm c sb rn rd imm) s sb rd (addV (rotImmShifted imm s.flags.c)) (addF (rotImmShifted imm s.flags.c))
    ∧ Computes (.addShiftImm c sb rn rd si) s sb rd (addV (shiftImmShifted si s)) (addF (shiftImmShifted si s))
    ∧ Computes (.addShiftReg c sb rn rd sr) s sb rd (addV (shiftRegShifted sr s)) (addF (shiftRegShifted sr s))
    ∧ Computes (.adcImm c sb rn rd imm) s sb rd (adcV (rotImmShifted imm s.flags.c)) (adcF (rotImmShifted imm s.flags.c))
    ∧ Computes (.adcShiftImm c sb rn rd si) s sb rd (adcV (shiftImmShifted si s)) (adcF (shiftImmShifted si s))
    ∧ Computes (.adcShiftReg c sb rn rd sr) s sb rd (adcV (shiftRegShifted sr s)) (adcF (shiftRegShifted sr s))

/-- SUB, RSB, SBC, RSC: result, flags, PC destination and frame (42_data_processing.md R262, 42_data_processing.md R263, 42_data_processing.md R264, 42_data_processing.md R265, 42_data_processing.md R251, 42_data_processing.md R252, 42_data_processing.md R253, 60_exceptions.md R438). The model's choice or reading: log entry 38. -/
def Obligations.SubtractionOperations : Prop :=
  ∀ (c : Cond) (sb : Bool) (rn rd : RegNum) (imm : RotImm) (si : ShiftImm) (sr : ShiftReg) (s : State),
    let subV : Shifted → Word := fun o => (s.readReg rn) - o.value
    let subF : Shifted → Flags := fun o =>
      { n := ((s.readReg rn) - o.value).getLsbD 31
        z := decide ((s.readReg rn) - o.value = 0)
        c := decide (o.value.toNat ≤ (s.readReg rn).toNat)
        v := decide ((s.readReg rn).getLsbD 31 ≠ o.value.getLsbD 31 ∧ ((s.readReg rn) - o.value).getLsbD 31 ≠ (s.readReg rn).getLsbD 31) }
    let rsbV : Shifted → Word := fun o => o.value - (s.readReg rn)
    let rsbF : Shifted → Flags := fun o =>
      { n := (o.value - (s.readReg rn)).getLsbD 31
        z := decide (o.value - (s.readReg rn) = 0)
        c := decide ((s.readReg rn).toNat ≤ o.value.toNat)
        v := decide (o.value.getLsbD 31 ≠ (s.readReg rn).getLsbD 31 ∧ (o.value - (s.readReg rn)).getLsbD 31 ≠ o.value.getLsbD 31) }
    let sbcV : Shifted → Word := fun o => (s.readReg rn) - o.value - (1 - BitVec.ofNat 32 s.flags.c.toNat)
    let sbcF : Shifted → Flags := fun o =>
      { n := ((s.readReg rn) - o.value - (1 - BitVec.ofNat 32 s.flags.c.toNat)).getLsbD 31
        z := decide ((s.readReg rn) - o.value - (1 - BitVec.ofNat 32 s.flags.c.toNat) = 0)
        c := decide (o.value.toNat + (1 - s.flags.c.toNat) ≤ (s.readReg rn).toNat)
        v := decide ((s.readReg rn).getLsbD 31 ≠ o.value.getLsbD 31 ∧ ((s.readReg rn) - o.value - (1 - BitVec.ofNat 32 s.flags.c.toNat)).getLsbD 31 ≠ (s.readReg rn).getLsbD 31) }
    let rscV : Shifted → Word := fun o => o.value - (s.readReg rn) - (1 - BitVec.ofNat 32 s.flags.c.toNat)
    let rscF : Shifted → Flags := fun o =>
      { n := (o.value - (s.readReg rn) - (1 - BitVec.ofNat 32 s.flags.c.toNat)).getLsbD 31
        z := decide (o.value - (s.readReg rn) - (1 - BitVec.ofNat 32 s.flags.c.toNat) = 0)
        c := decide ((s.readReg rn).toNat + (1 - s.flags.c.toNat) ≤ o.value.toNat)
        v := decide (o.value.getLsbD 31 ≠ (s.readReg rn).getLsbD 31 ∧ (o.value - (s.readReg rn) - (1 - BitVec.ofNat 32 s.flags.c.toNat)).getLsbD 31 ≠ o.value.getLsbD 31) }
    Computes (.subImm c sb rn rd imm) s sb rd (subV (rotImmShifted imm s.flags.c)) (subF (rotImmShifted imm s.flags.c))
    ∧ Computes (.subShiftImm c sb rn rd si) s sb rd (subV (shiftImmShifted si s)) (subF (shiftImmShifted si s))
    ∧ Computes (.subShiftReg c sb rn rd sr) s sb rd (subV (shiftRegShifted sr s)) (subF (shiftRegShifted sr s))
    ∧ Computes (.rsbImm c sb rn rd imm) s sb rd (rsbV (rotImmShifted imm s.flags.c)) (rsbF (rotImmShifted imm s.flags.c))
    ∧ Computes (.rsbShiftImm c sb rn rd si) s sb rd (rsbV (shiftImmShifted si s)) (rsbF (shiftImmShifted si s))
    ∧ Computes (.rsbShiftReg c sb rn rd sr) s sb rd (rsbV (shiftRegShifted sr s)) (rsbF (shiftRegShifted sr s))
    ∧ Computes (.sbcImm c sb rn rd imm) s sb rd (sbcV (rotImmShifted imm s.flags.c)) (sbcF (rotImmShifted imm s.flags.c))
    ∧ Computes (.sbcShiftImm c sb rn rd si) s sb rd (sbcV (shiftImmShifted si s)) (sbcF (shiftImmShifted si s))
    ∧ Computes (.sbcShiftReg c sb rn rd sr) s sb rd (sbcV (shiftRegShifted sr s)) (sbcF (shiftRegShifted sr s))
    ∧ Computes (.rscImm c sb rn rd imm) s sb rd (rscV (rotImmShifted imm s.flags.c)) (rscF (rotImmShifted imm s.flags.c))
    ∧ Computes (.rscShiftImm c sb rn rd si) s sb rd (rscV (shiftImmShifted si s)) (rscF (shiftImmShifted si s))
    ∧ Computes (.rscShiftReg c sb rn rd sr) s sb rd (rscV (shiftRegShifted sr s)) (rscF (shiftRegShifted sr s))

/-- TST, TEQ, CMP, CMN: the flags change and nothing else (42_data_processing.md R256, 42_data_processing.md R257, 42_data_processing.md R258, 42_data_processing.md R259, 42_data_processing.md R250, 42_data_processing.md R252). -/
def Obligations.CompareOperations : Prop :=
  ∀ (c : Cond) (rn : RegNum) (imm : RotImm) (si : ShiftImm) (sr : ShiftReg) (s : State),
    let tstF : Shifted → Flags := fun o =>
      { n := (s.readReg rn &&& o.value).getLsbD 31
        z := decide ((s.readReg rn &&& o.value) = 0)
        c := o.carry
        v := s.flags.v }
    let teqF : Shifted → Flags := fun o =>
      { n := (s.readReg rn ^^^ o.value).getLsbD 31
        z := decide ((s.readReg rn ^^^ o.value) = 0)
        c := o.carry
        v := s.flags.v }
    let cmpF : Shifted → Flags := fun o =>
      { n := ((s.readReg rn) - o.value).getLsbD 31
        z := decide ((s.readReg rn) - o.value = 0)
        c := decide (o.value.toNat ≤ (s.readReg rn).toNat)
        v := decide ((s.readReg rn).getLsbD 31 ≠ o.value.getLsbD 31 ∧ ((s.readReg rn) - o.value).getLsbD 31 ≠ (s.readReg rn).getLsbD 31) }
    let cmnF : Shifted → Flags := fun o =>
      { n := ((s.readReg rn) + o.value).getLsbD 31
        z := decide ((s.readReg rn) + o.value = 0)
        c := decide (2 ^ 32 ≤ (s.readReg rn).toNat + o.value.toNat)
        v := decide ((s.readReg rn).getLsbD 31 = o.value.getLsbD 31 ∧ ((s.readReg rn) + o.value).getLsbD 31 ≠ (s.readReg rn).getLsbD 31) }
    Compares (.tstImm c rn imm) s (tstF (rotImmShifted imm s.flags.c))
    ∧ Compares (.tstShiftImm c rn si) s (tstF (shiftImmShifted si s))
    ∧ Compares (.tstShiftReg c rn sr) s (tstF (shiftRegShifted sr s))
    ∧ Compares (.teqImm c rn imm) s (teqF (rotImmShifted imm s.flags.c))
    ∧ Compares (.teqShiftImm c rn si) s (teqF (shiftImmShifted si s))
    ∧ Compares (.teqShiftReg c rn sr) s (teqF (shiftRegShifted sr s))
    ∧ Compares (.cmpImm c rn imm) s (cmpF (rotImmShifted imm s.flags.c))
    ∧ Compares (.cmpShiftImm c rn si) s (cmpF (shiftImmShifted si s))
    ∧ Compares (.cmpShiftReg c rn sr) s (cmpF (shiftRegShifted sr s))
    ∧ Compares (.cmnImm c rn imm) s (cmnF (rotImmShifted imm s.flags.c))
    ∧ Compares (.cmnShiftImm c rn si) s (cmnF (shiftImmShifted si s))
    ∧ Compares (.cmnShiftReg c rn sr) s (cmnF (shiftRegShifted sr s))

/-- C and V are the carry and the signed overflow of the exact sum or difference (42_data_processing.md R252, 10_state.md R32). -/
def Obligations.OverflowIsSignedOverflow : Prop :=
  ∀ (a b : Word) (cin : Bool),
    ((addResult a b cin).flags.v = true
        ↔ a.toInt + b.toInt + (cin.toNat : Int) < -2147483648 ∨ 2147483647 < a.toInt + b.toInt + (cin.toNat : Int))
    ∧ ((subResult a b cin).flags.v = true
        ↔ a.toInt - b.toInt - 1 + (cin.toNat : Int) < -2147483648
          ∨ 2147483647 < a.toInt - b.toInt - 1 + (cin.toNat : Int))
    ∧ (addResult a b cin).value.toNat + 2 ^ 32 * (addResult a b cin).flags.c.toNat = a.toNat + b.toNat + cin.toNat
    ∧ ((subResult a b cin).flags.c = true ↔ b.toNat + 1 ≤ a.toNat + cin.toNat)
    ∧ (subResult a b true).value = a - b ∧ (subResult a b false).value = a - b - 1

/-- MUL, MLA: result, flags and frame (43_multiply.md R291, 43_multiply.md R292, 43_multiply.md R293, 43_multiply.md R294). -/
def Obligations.MultiplyShort : Prop :=
  ∀ (c : Cond) (sb : Bool) (rd rn rs rm : RegNum) (s : State), s.pc ≠ 0xFFFFFFFC →
    (Ready (.mul c sb rd rs rm) s → ∃ t, exec (.mul c sb rd rs rm) s = .next t
      ∧ (t.reg rd).toNat = (s.reg rm).toNat * (s.reg rs).toNat % 2 ^ 32
      ∧ (sb = true → t.flags.n = (t.reg rd).getLsbD 31 ∧ t.flags.z = decide (t.reg rd = 0) ∧ t.flags.v = s.flags.v)
      ∧ (sb = false → t.flags = s.flags ∧ t.freeIdx = s.freeIdx)
      ∧ t.pc = s.pc + 4 ∧ OnlyRegisters s t [rd])
    ∧ (Ready (.mla c sb rd rn rs rm) s → ∃ t, exec (.mla c sb rd rn rs rm) s = .next t
      ∧ (t.reg rd).toNat = ((s.reg rm).toNat * (s.reg rs).toNat + (s.reg rn).toNat) % 2 ^ 32
      ∧ (sb = true → t.flags.n = (t.reg rd).getLsbD 31 ∧ t.flags.z = decide (t.reg rd = 0) ∧ t.flags.v = s.flags.v)
      ∧ (sb = false → t.flags = s.flags ∧ t.freeIdx = s.freeIdx)
      ∧ t.pc = s.pc + 4 ∧ OnlyRegisters s t [rd])

/-- UMULL, UMLAL, SMULL, SMLAL: 64-bit result, flags and frame (43_multiply.md R291, 43_multiply.md R292, 43_multiply.md R295, 43_multiply.md R296, 43_multiply.md R297, 43_multiply.md R298). -/
def Obligations.MultiplyLong : Prop :=
  ∀ (c : Cond) (sb : Bool) (hi lo rs rm : RegNum) (s : State), s.pc ≠ 0xFFFFFFFC →
    (Ready (.umull c sb hi lo rs rm) s → ∃ t, exec (.umull c sb hi lo rs rm) s = .next t
      ∧ (t.reg hi ++ t.reg lo).toNat = (s.reg rm).toNat * (s.reg rs).toNat
      ∧ (sb = true → t.flags.n = (t.reg hi).getLsbD 31 ∧ t.flags.z = decide (t.reg hi = 0 ∧ t.reg lo = 0))
      ∧ (sb = false → t.flags = s.flags ∧ t.freeIdx = s.freeIdx)
      ∧ t.pc = s.pc + 4 ∧ OnlyRegisters s t [hi, lo])
    ∧ (Ready (.umlal c sb hi lo rs rm) s → ∃ t, exec (.umlal c sb hi lo rs rm) s = .next t
      ∧ (t.reg hi ++ t.reg lo).toNat
        = ((s.reg rm).toNat * (s.reg rs).toNat + (s.reg hi ++ s.reg lo).toNat) % 2 ^ 64
      ∧ (sb = true → t.flags.n = (t.reg hi).getLsbD 31 ∧ t.flags.z = decide (t.reg hi = 0 ∧ t.reg lo = 0))
      ∧ (sb = false → t.flags = s.flags ∧ t.freeIdx = s.freeIdx)
      ∧ t.pc = s.pc + 4 ∧ OnlyRegisters s t [hi, lo])
    ∧ (Ready (.smull c sb hi lo rs rm) s → ∃ t, exec (.smull c sb hi lo rs rm) s = .next t
      ∧ (t.reg hi ++ t.reg lo).toInt = (s.reg rm).toInt * (s.reg rs).toInt
      ∧ (sb = true → t.flags.n = (t.reg hi).getLsbD 31 ∧ t.flags.z = decide (t.reg hi = 0 ∧ t.reg lo = 0))
      ∧ (sb = false → t.flags = s.flags ∧ t.freeIdx = s.freeIdx)
      ∧ t.pc = s.pc + 4 ∧ OnlyRegisters s t [hi, lo])
    ∧ (Ready (.smlal c sb hi lo rs rm) s → ∃ t, exec (.smlal c sb hi lo rs rm) s = .next t
      ∧ t.reg hi ++ t.reg lo
        = BitVec.ofInt 64 ((s.reg rm).toInt * (s.reg rs).toInt + (s.reg hi ++ s.reg lo).toInt)
      ∧ (sb = true → t.flags.n = (t.reg hi).getLsbD 31 ∧ t.flags.z = decide (t.reg hi = 0 ∧ t.reg lo = 0))
      ∧ (sb = false → t.flags = s.flags ∧ t.freeIdx = s.freeIdx)
      ∧ t.pc = s.pc + 4 ∧ OnlyRegisters s t [hi, lo])

/-- LDR of an aligned word from a memory or a device register: value, base, PC destination and frame (41_load_store.md R201, 41_load_store.md R203, 41_load_store.md R211, 20_memory.md R76, 20_memory.md R70, 20_memory.md R75, 60_exceptions.md R434). The model's choice or reading: log entry 20. -/
def Obligations.LoadWord : Prop :=
  ∀ (c : Cond) (u w : Bool) (rn rd : RegNum) (imm12 : BitVec 12) (off : ShiftImm) (s : State),
    Loads (.ldrImmPre c u w rn rd imm12) s 4 (preIndexed u w (s.readReg rn) (offset12 imm12)) rn rd s.wordAt
    ∧ Loads (.ldrImmPost c u rn rd imm12) s 4 (postIndexed u (s.readReg rn) (offset12 imm12)) rn rd s.wordAt
    ∧ Loads (.ldrRegPre c u w rn rd off) s 4 (preIndexed u w (s.readReg rn) (offsetReg off s)) rn rd s.wordAt
    ∧ Loads (.ldrRegPost c u rn rd off) s 4 (postIndexed u (s.readReg rn) (offsetReg off s)) rn rd s.wordAt

/-- LDRB, LDRH, LDRSB, LDRSH from memory: value, base and frame (41_load_store.md R205, 41_load_store.md R207, 41_load_store.md R209, 41_load_store.md R210, 41_load_store.md R201, 41_load_store.md R202, 41_load_store.md R211, 20_memory.md R76, 20_memory.md R75). The model's choice or reading: log entry 20. -/
def Obligations.LoadByteAndHalfword : Prop :=
  ∀ (c : Cond) (u w : Bool) (rn rd rm : RegNum) (imm8 : BitVec 8) (imm12 : BitVec 12) (off : ShiftImm) (s : State),
    Loads (.ldrbImmPre c u w rn rd imm12) s 1 (preIndexed u w (s.readReg rn) (offset12 imm12)) rn rd (fun p => (s.byteAt p).setWidth 32)
    ∧ Loads (.ldrbImmPost c u rn rd imm12) s 1 (postIndexed u (s.readReg rn) (offset12 imm12)) rn rd (fun p => (s.byteAt p).setWidth 32)
    ∧ Loads (.ldrbRegPre c u w rn rd off) s 1 (preIndexed u w (s.readReg rn) (offsetReg off s)) rn rd (fun p => (s.byteAt p).setWidth 32)
    ∧ Loads (.ldrbRegPost c u rn rd off) s 1 (postIndexed u (s.readReg rn) (offsetReg off s)) rn rd (fun p => (s.byteAt p).setWidth 32)
    ∧ Loads (.ldrhImmPre c u w rn rd imm8) s 2 (preIndexed u w (s.readReg rn) (offset8 imm8)) rn rd (fun p => (s.halfAt p).setWidth 32)
    ∧ Loads (.ldrhImmPost c u rn rd imm8) s 2 (postIndexed u (s.readReg rn) (offset8 imm8)) rn rd (fun p => (s.halfAt p).setWidth 32)
    ∧ Loads (.ldrhRegPre c u w rn rd rm) s 2 (preIndexed u w (s.readReg rn) (s.readReg rm)) rn rd (fun p => (s.halfAt p).setWidth 32)
    ∧ Loads (.ldrhRegPost c u rn rd rm) s 2 (postIndexed u (s.readReg rn) (s.readReg rm)) rn rd (fun p => (s.halfAt p).setWidth 32)
    ∧ Loads (.ldrsbImmPre c u w rn rd imm8) s 1 (preIndexed u w (s.readReg rn) (offset8 imm8)) rn rd (fun p => (s.byteAt p).signExtend 32)
    ∧ Loads (.ldrsbImmPost c u rn rd imm8) s 1 (postIndexed u (s.readReg rn) (offset8 imm8)) rn rd (fun p => (s.byteAt p).signExtend 32)
    ∧ Loads (.ldrsbRegPre c u w rn rd rm) s 1 (preIndexed u w (s.readReg rn) (s.readReg rm)) rn rd (fun p => (s.byteAt p).signExtend 32)
    ∧ Loads (.ldrsbRegPost c u rn rd rm) s 1 (postIndexed u (s.readReg rn) (s.readReg rm)) rn rd (fun p => (s.byteAt p).signExtend 32)
    ∧ Loads (.ldrshImmPre c u w rn rd imm8) s 2 (preIndexed u w (s.readReg rn) (offset8 imm8)) rn rd (fun p => (s.halfAt p).signExtend 32)
    ∧ Loads (.ldrshImmPost c u rn rd imm8) s 2 (postIndexed u (s.readReg rn) (offset8 imm8)) rn rd (fun p => (s.halfAt p).signExtend 32)
    ∧ Loads (.ldrshRegPre c u w rn rd rm) s 2 (preIndexed u w (s.readReg rn) (s.readReg rm)) rn rd (fun p => (s.halfAt p).signExtend 32)
    ∧ Loads (.ldrshRegPost c u rn rd rm) s 2 (postIndexed u (s.readReg rn) (s.readReg rm)) rn rd (fun p => (s.halfAt p).signExtend 32)

/-- STR of an aligned word to RAM or to a device register: stored bytes, base and frame (41_load_store.md R201, 41_load_store.md R204, 41_load_store.md R211, 20_memory.md R77, 20_memory.md R70, 10_state.md R30, 20_memory.md R75, 60_exceptions.md R434). The model's choice or reading: log entries 20, 29. -/
def Obligations.StoreWord : Prop :=
  ∀ (c : Cond) (u w : Bool) (rn rd : RegNum) (imm12 : BitVec 12) (off : ShiftImm) (s : State),
    let v : Word := if rd = 15 then s.pc + 12 else s.reg rd
    Stores (.strImmPre c u w rn rd imm12) s 4 (preIndexed u w (s.readReg rn) (offset12 imm12)) rn v
    ∧ Stores (.strImmPost c u rn rd imm12) s 4 (postIndexed u (s.readReg rn) (offset12 imm12)) rn v
    ∧ Stores (.strRegPre c u w rn rd off) s 4 (preIndexed u w (s.readReg rn) (offsetReg off s)) rn v
    ∧ Stores (.strRegPost c u rn rd off) s 4 (postIndexed u (s.readReg rn) (offsetReg off s)) rn v

/-- STRB, STRH to RAM: stored bytes, base and frame (41_load_store.md R206, 41_load_store.md R208, 41_load_store.md R201, 41_load_store.md R202, 41_load_store.md R211, 20_memory.md R77, 20_memory.md R75). The model's choice or reading: log entry 20. -/
def Obligations.StoreByteAndHalfword : Prop :=
  ∀ (c : Cond) (u w : Bool) (rn rd rm : RegNum) (imm8 : BitVec 8) (imm12 : BitVec 12) (off : ShiftImm) (s : State),
    Stores (.strbImmPre c u w rn rd imm12) s 1 (preIndexed u w (s.readReg rn) (offset12 imm12)) rn (s.reg rd)
    ∧ Stores (.strbImmPost c u rn rd imm12) s 1 (postIndexed u (s.readReg rn) (offset12 imm12)) rn (s.reg rd)
    ∧ Stores (.strbRegPre c u w rn rd off) s 1 (preIndexed u w (s.readReg rn) (offsetReg off s)) rn (s.reg rd)
    ∧ Stores (.strbRegPost c u rn rd off) s 1 (postIndexed u (s.readReg rn) (offsetReg off s)) rn (s.reg rd)
    ∧ Stores (.strhImmPre c u w rn rd imm8) s 2 (preIndexed u w (s.readReg rn) (offset8 imm8)) rn (s.reg rd)
    ∧ Stores (.strhImmPost c u rn rd imm8) s 2 (postIndexed u (s.readReg rn) (offset8 imm8)) rn (s.reg rd)
    ∧ Stores (.strhRegPre c u w rn rd rm) s 2 (preIndexed u w (s.readReg rn) (s.readReg rm)) rn (s.reg rd)
    ∧ Stores (.strhRegPost c u rn rd rm) s 2 (postIndexed u (s.readReg rn) (s.readReg rm)) rn (s.reg rd)

/-- SWP, SWPB: register and memory exchanged (41_load_store.md R226, 41_load_store.md R227, 20_memory.md R74, 20_memory.md R99, 20_memory.md R75, 60_exceptions.md R434). The model's choice or reading: log entries 20, 37. -/
def Obligations.SwapExchanges : Prop :=
  ∀ (c : Cond) (rn rd rm : RegNum) (s : State),
    Swaps (.swp c rn rd rm) s 4 (s.reg rn) rd s.wordAt (s.reg rm)
    ∧ Swaps (.swpb c rn rd rm) s 1 (s.reg rn) rd (fun p => (s.byteAt p).setWidth 32) (s.reg rm)
    ∧ (Ready (.swp c rn rd rm) s → ∀ p, remap s.sys.memmap (s.reg rn) = some p → plainMemory p → p % 4 ≠ 0 →
        exec (.swp c rn rd rm) s = .fault .misaligned)

/-- LDM without R15: each listed register loaded in order, base and frame; one register from a device (41_load_store.md R221, 41_load_store.md R222, 41_load_store.md R223, 10_state.md R26, 70_reset_and_hazards.md R652, 20_memory.md R75). The model's choice or reading: log entry 20. -/
def Obligations.LoadMultiple : Prop :=
  (∀ (c : Cond) (p u sb w : Bool) (rn : RegNum) (list : BitVec 16) (s : State),
    let n := ((List.range 16).filter fun k => list.getLsbD k).length
    let bytes : Word := BitVec.ofNat 32 (4 * n)
    let start : Word := if u then (if p then s.reg rn + 4 else s.reg rn)
      else (if p then s.reg rn - bytes else s.reg rn - bytes + 4)
    let bank := if sb then Mode.user else s.mode
    Ready (.ldm c p u sb w rn list) s → list.getLsbD 15 = false → (sb = true → s.currentSpsr.isSome = true) →
    start.toNat % 4 = 0 → start.toNat + 4 * n ≤ 2 ^ 32 →
    (∀ j, j < n → ∃ q, remap s.sys.memmap (start + BitVec.ofNat 32 (4 * j)) = some q ∧ plainMemory q) →
    s.pc ≠ 0xFFFFFFFC →
    ∃ t, exec (.ldm c p u sb w rn list) s = .next t
      ∧ (∀ k, k < 15 → list.getLsbD k = true →
          ∀ q, remap s.sys.memmap (start + BitVec.ofNat 32 (4 * listRank list k)) = some q →
            t.regIn bank (BitVec.ofNat 4 k) = s.wordAt q)
      ∧ (w = true → t.reg rn = if u then s.reg rn + BitVec.ofNat 32 (4 * n) else s.reg rn - BitVec.ofNat 32 (4 * n))
      ∧ (∀ m r, r ≠ 15 → (∀ k, k < 15 → list.getLsbD k = true → physIndex m r ≠ physIndex bank (BitVec.ofNat 4 k)) →
          (w = true → physIndex m r ≠ physIndex s.mode rn) → t.regIn m r = s.regIn m r)
      ∧ t.pc = s.pc + 4 ∧ t.cpsr = s.cpsr ∧ t.spsr = s.spsr ∧ t.userBankLdm = sb ∧ t.freeIdx = s.freeIdx
      ∧ MemoryKept s t ∧ DevicesKept s t)
  ∧ ∀ (c : Cond) (p u w : Bool) (rn rd : RegNum) (s : State), s.userBankLdm = false →
    LoadsDevice (.ldm c p u false w rn (1#16 <<< rd.toNat)) s 4
      { addr := if u then (if p then s.reg rn + 4 else s.reg rn) else (if p then s.reg rn - 4 else s.reg rn)
        wb := if w then some (if u then s.reg rn + 4 else s.reg rn - 4) else none } rn rd

/-- LDM with R15: branch, or with ^ the return from an exception (41_load_store.md R221, 41_load_store.md R222, 60_exceptions.md R438, 10_state.md R30, 10_state.md R27). The model's choice or reading: log entry 38. -/
def Obligations.LoadMultipleWithPc : Prop :=
  ∀ (c : Cond) (p u sb w : Bool) (rn : RegNum) (list : BitVec 16) (s : State) (last : Nat),
    let n := ((List.range 16).filter fun k => list.getLsbD k).length
    let bytes : Word := BitVec.ofNat 32 (4 * n)
    let start : Word := if u then (if p then s.reg rn + 4 else s.reg rn)
      else (if p then s.reg rn - bytes else s.reg rn - bytes + 4)
    Ready (.ldm c p u sb w rn list) s → list.getLsbD 15 = true →
    start.toNat % 4 = 0 → start.toNat + 4 * n ≤ 2 ^ 32 →
    (∀ j, j < n → ∃ q, remap s.sys.memmap (start + BitVec.ofNat 32 (4 * j)) = some q ∧ plainMemory q) →
    remap s.sys.memmap (start + BitVec.ofNat 32 (4 * (n - 1))) = some last →
    (sb = false → (s.wordAt last).extractLsb' 0 2 = 0) →
    (sb = true → ∃ psr, s.currentSpsr = some psr ∧ (modeOf psr).isSome = true
      ∧ (psr.getLsbD 5 = true ∨ (s.wordAt last).extractLsb' 0 2 = 0)) →
    ∃ t, exec (.ldm c p u sb w rn list) s = .next t
      ∧ (sb = false → t.cpsr = s.cpsr) ∧ (sb = true → s.currentSpsr = some t.cpsr)
      ∧ (let odd := sb = true ∧ t.cpsr.getLsbD 5 = true ∧ (s.wordAt last).getLsbD 0 = true
        (¬ odd → t.pc = s.wordAt last ∧ t.freeIdx = s.freeIdx) ∧ (odd → t.pc.getLsbD 0 = false))
      ∧ (∀ k, k < 15 → list.getLsbD k = true →
          ∀ q, remap s.sys.memmap (start + BitVec.ofNat 32 (4 * listRank list k)) = some q →
            t.regIn s.mode (BitVec.ofNat 4 k) = s.wordAt q)
      ∧ (w = true →
          t.regIn s.mode rn = if u then s.reg rn + BitVec.ofNat 32 (4 * n) else s.reg rn - BitVec.ofNat 32 (4 * n))
      ∧ (∀ m r, r ≠ 15 →
          (∀ k, k < 15 → list.getLsbD k = true → physIndex m r ≠ physIndex s.mode (BitVec.ofNat 4 k)) →
          (w = true → physIndex m r ≠ physIndex s.mode rn) → t.regIn m r = s.regIn m r)
      ∧ t.spsr = s.spsr ∧ t.userBankLdm = s.userBankLdm ∧ MemoryKept s t ∧ DevicesKept s t

/-- STM: each listed register stored in order, base and frame; one register to a device (41_load_store.md R221, 41_load_store.md R223, 41_load_store.md R224, 10_state.md R30, 20_memory.md R77, 20_memory.md R75). The model's choice or reading: log entries 20, 29. -/
def Obligations.StoreMultiple : Prop :=
  (∀ (c : Cond) (p u sb w : Bool) (rn : RegNum) (list : BitVec 16) (s : State),
    let n := ((List.range 16).filter fun k => list.getLsbD k).length
    let bytes : Word := BitVec.ofNat 32 (4 * n)
    let start : Word := if u then (if p then s.reg rn + 4 else s.reg rn)
      else (if p then s.reg rn - bytes else s.reg rn - bytes + 4)
    let bank := if sb then Mode.user else s.mode
    Ready (.stm c p u sb w rn list) s → (sb = true → s.currentSpsr.isSome = true) →
    s.memoryLegal = true → start.toNat % 4 = 0 → start.toNat + 4 * n ≤ 2 ^ 32 →
    (∀ j, j < n → ∃ q, remap s.sys.memmap (start + BitVec.ofNat 32 (4 * j)) = some q ∧ plainRam q
      ∧ intoPrefetch q s = false) →
    s.pc ≠ 0xFFFFFFFC →
    ∃ t, exec (.stm c p u sb w rn list) s = .next t
      ∧ (∀ k, k < 16 → list.getLsbD k = true →
          ∀ q, remap s.sys.memmap (start + BitVec.ofNat 32 (4 * listRank list k)) = some q →
            t.wordAt q = if k = 15 then s.pc + 12 else s.regIn bank (BitVec.ofNat 4 k))
      ∧ (∀ a, (∀ j, j < n → ∀ q, remap s.sys.memmap (start + BitVec.ofNat 32 (4 * j)) = some q → a < q ∨ q + 4 ≤ a) →
          t.byteAt a = s.byteAt a)
      ∧ (w = true → t.reg rn = if u then s.reg rn + BitVec.ofNat 32 (4 * n) else s.reg rn - BitVec.ofNat 32 (4 * n))
      ∧ RegistersKept s t (if w then [rn] else [])
      ∧ t.pc = s.pc + 4 ∧ t.cpsr = s.cpsr ∧ t.spsr = s.spsr ∧ t.userBankLdm = s.userBankLdm ∧ t.freeIdx = s.freeIdx
      ∧ DevicesKept s t)
  ∧ ∀ (c : Cond) (p u w : Bool) (rn rd : RegNum) (s : State),
    StoresDevice (.stm c p u false w rn (1#16 <<< rd.toNat)) s 4
      { addr := if u then (if p then s.reg rn + 4 else s.reg rn) else (if p then s.reg rn - 4 else s.reg rn)
        wb := if w then some (if u then s.reg rn + 4 else s.reg rn - 4) else none } rn
      (if rd = 15 then s.pc + 12 else s.reg rd)

/-- LDM and STM stop where the spec refuses them: no SPSR, addresses that wrap, a bad target or mode (41_load_store.md R222, 41_load_store.md R223, 20_memory.md R103, 10_state.md R30, 10_state.md R37, 60_exceptions.md R438). The model's choice or reading: log entry 36. -/
def Obligations.BlockTransfersThatStop : Prop :=
  ∀ (c : Cond) (p u sb w : Bool) (rn : RegNum) (list : BitVec 16) (s : State) (last : Nat),
    let n := ((List.range 16).filter fun k => list.getLsbD k).length
    let bytes : Word := BitVec.ofNat 32 (4 * n)
    let start : Word := if u then (if p then s.reg rn + 4 else s.reg rn)
      else (if p then s.reg rn - bytes else s.reg rn - bytes + 4)
    (Ready (.ldm c p u true w rn list) s → s.mode = .user ∨ s.mode = .system →
      exec (.ldm c p u true w rn list) s = .fault .noSpsr)
    ∧ (Ready (.stm c p u true w rn list) s → s.mode = .user ∨ s.mode = .system →
      exec (.stm c p u true w rn list) s = .fault .noSpsr)
    ∧ (2 ^ 32 < start.toNat - start.toNat % 4 + 4 * n → (sb = true → s.currentSpsr.isSome = true) →
      (Ready (.ldm c p u sb w rn list) s → exec (.ldm c p u sb w rn list) s = .fault .addressWrap)
      ∧ (Ready (.stm c p u sb w rn list) s → exec (.stm c p u sb w rn list) s = .fault .addressWrap))
    ∧ (list.getLsbD 15 = true → start.toNat % 4 = 0 → start.toNat + 4 * n ≤ 2 ^ 32 →
      (∀ j, j < n → ∃ q, remap s.sys.memmap (start + BitVec.ofNat 32 (4 * j)) = some q ∧ plainMemory q) →
      remap s.sys.memmap (start + BitVec.ofNat 32 (4 * (n - 1))) = some last →
      (Ready (.ldm c p u false w rn list) s → (s.wordAt last).extractLsb' 0 2 ≠ 0 →
        exec (.ldm c p u false w rn list) s = .fault .misalignedPc)
      ∧ (Ready (.ldm c p u true w rn list) s → ∀ psr, s.currentSpsr = some psr →
        (modeOf psr = none → exec (.ldm c p u true w rn list) s = .fault .illegalMode)
        ∧ ((modeOf psr).isSome = true → psr.getLsbD 5 = false → (s.wordAt last).extractLsb' 0 2 ≠ 0 →
          exec (.ldm c p u true w rn list) s = .fault .misalignedPc)))

/-- An LDM or STM aborted part-way keeps what it has transferred and changes nothing else (60_exceptions.md R434, 60_exceptions.md R436, 41_load_store.md R222, 41_load_store.md R223, 41_load_store.md R224, 41_load_store.md R211, 20_memory.md R85, 20_memory.md R80). The model's choice or reading: log entries 4, 18, 22, 32. -/
def Obligations.BlockTransfersThatAbort : Prop :=
  ∀ (c : Cond) (p u sb w : Bool) (rn : RegNum) (list : BitVec 16) (s : State) (j : Nat) (bad : Nat),
    let n := ((List.range 16).filter fun k => list.getLsbD k).length
    let bytes : Word := BitVec.ofNat 32 (4 * n)
    let start : Word := if u then (if p then s.reg rn + 4 else s.reg rn)
      else (if p then s.reg rn - bytes else s.reg rn - bytes + 4)
    let bank := if sb = true ∧ list.getLsbD 15 = false then Mode.user else s.mode
    let aborts : Instr → (State → Prop) → Prop := fun i before =>
      ∃ s1 t, exec i s = .next t ∧ Entered s1 t .abort (s.pc + 8) 0x10 false ∧ s1.cpsr = s.cpsr ∧ s1.spsr = s.spsr
        ∧ DevicesKept { s with sys := { s.sys with feedArmed := s1.sys.feedArmed } } s1
        ∧ (bad < 0xE0000000 ∨ 0xE0200000 ≤ bad → s1.sys = s.sys)
        ∧ (w = true → s1.regIn s.mode rn = s.reg rn
          ∨ s1.regIn s.mode rn = if u then s.reg rn + BitVec.ofNat 32 (4 * n) else s.reg rn - BitVec.ofNat 32 (4 * n))
        ∧ before s1
    start.toNat % 4 = 0 → start.toNat + 4 * n ≤ 2 ^ 32 → j < n → (sb = true → s.currentSpsr.isSome = true) →
    remap s.sys.memmap (start + BitVec.ofNat 32 (4 * j)) = some bad → (regionOf bad).kind = .unmapped →
    (Ready (.ldm c p u sb w rn list) s →
      (∀ k, k < j → ∃ q, remap s.sys.memmap (start + BitVec.ofNat 32 (4 * k)) = some q ∧ plainMemory q) →
      aborts (.ldm c p u sb w rn list) fun s1 => MemoryKept s s1
        ∧ (∀ k, k < 15 → list.getLsbD k = true → listRank list k < j →
          ∀ q, remap s.sys.memmap (start + BitVec.ofNat 32 (4 * listRank list k)) = some q →
            s1.regIn bank (BitVec.ofNat 4 k) = s.wordAt q)
        ∧ (∀ m r, r ≠ 15 →
          (∀ k, k < 15 → list.getLsbD k = true → listRank list k < j →
            physIndex m r ≠ physIndex bank (BitVec.ofNat 4 k)) →
          (w = true → physIndex m r ≠ physIndex s.mode rn) → s1.regIn m r = s.regIn m r))
    ∧ (Ready (.stm c p u sb w rn list) s → s.memoryLegal = true →
      (∀ k, k < j → ∃ q, remap s.sys.memmap (start + BitVec.ofNat 32 (4 * k)) = some q ∧ plainRam q
        ∧ intoPrefetch q s = false) →
      aborts (.stm c p u sb w rn list) fun s1 =>
        (∀ k, k < 15 → list.getLsbD k = true → listRank list k < j →
          ∀ q, remap s.sys.memmap (start + BitVec.ofNat 32 (4 * listRank list k)) = some q →
            s1.wordAt q = s.regIn (if sb then Mode.user else s.mode) (BitVec.ofNat 4 k))
        ∧ (∀ a, (∀ k, k < j → ∀ q, remap s.sys.memmap (start + BitVec.ofNat 32 (4 * k)) = some q →
            a < q ∨ q + 4 ≤ a) → s1.byteAt a = s.byteAt a)
        ∧ RegistersKept s s1 (if w then [rn] else []))

/-- Misaligned accesses: LDR rotates, STR, LDM and STM ignore the low bits, halfwords stop (model choice) (20_memory.md R74, 92_eei_decisions.md D2, 41_load_store.md R221, 41_load_store.md R222, 41_load_store.md R224). The model's choice or reading: log entries 5, 29, 38. -/
def Obligations.MisalignedTransfers : Prop :=
  ∀ (c : Cond) (p u sb w : Bool) (rn rd rm : RegNum) (imm12 : BitVec 12) (imm8 : BitVec 8) (off : ShiftImm)
      (list : BitVec 16) (s : State),
    let rotates : Instr → Address → Prop := fun i m => Ready i s → ∀ q, remap s.sys.memmap m.addr = some q → plainMemory q →
      let x := (s.wordAt (q - q % 4)).rotateRight (8 * (q % 4))
      (rd ≠ 15 → s.pc ≠ 0xFFFFFFFC →
        ∃ t, exec i s = .next t ∧ t.reg rd = x ∧ (∀ v, m.wb = some v → t.reg rn = v) ∧ t.pc = s.pc + 4
          ∧ t.cpsr = s.cpsr ∧ OnlyRegisters s t (rd :: m.written rn) ∧ t.freeIdx = s.freeIdx)
      ∧ (rd = 15 → x.extractLsb' 0 2 = 0 →
        ∃ t, exec i s = .next t ∧ t.pc = x ∧ (∀ v, m.wb = some v → t.reg rn = v) ∧ t.cpsr = s.cpsr
          ∧ OnlyRegisters s t (m.written rn) ∧ t.freeIdx = s.freeIdx)
      ∧ (rd = 15 → x.extractLsb' 0 2 ≠ 0 → exec i s = .fault .misalignedPc)
    let truncates : Instr → Address → Prop := fun i m => Ready i s → s.memoryLegal = true → s.pc ≠ 0xFFFFFFFC →
      ∀ q, remap s.sys.memmap m.addr = some q → plainRam q → intoPrefetch (q - q % 4) s = false →
      ∃ t, exec i s = .next t ∧ t.wordAt (q - q % 4) = (if rd = 15 then s.pc + 12 else s.reg rd)
        ∧ (∀ v, m.wb = some v → t.reg rn = v) ∧ t.pc = s.pc + 4 ∧ OnlyBytes s t (q - q % 4) 4 (m.written rn)
    let stopsAtOdd : Instr → Address → Prop := fun i m => Ready i s → ∀ q, remap s.sys.memmap m.addr = some q →
      plainMemory q → q % 2 = 1 → exec i s = .fault .misaligned
    rotates (.ldrImmPre c u w rn rd imm12) (preIndexed u w (s.readReg rn) (offset12 imm12))
    ∧ rotates (.ldrImmPost c u rn rd imm12) (postIndexed u (s.readReg rn) (offset12 imm12))
    ∧ rotates (.ldrRegPre c u w rn rd off) (preIndexed u w (s.readReg rn) (offsetReg off s))
    ∧ rotates (.ldrRegPost c u rn rd off) (postIndexed u (s.readReg rn) (offsetReg off s))
    ∧ truncates (.strImmPre c u w rn rd imm12) (preIndexed u w (s.readReg rn) (offset12 imm12))
    ∧ truncates (.strImmPost c u rn rd imm12) (postIndexed u (s.readReg rn) (offset12 imm12))
    ∧ truncates (.strRegPre c u w rn rd off) (preIndexed u w (s.readReg rn) (offsetReg off s))
    ∧ truncates (.strRegPost c u rn rd off) (postIndexed u (s.readReg rn) (offsetReg off s))
    ∧ stopsAtOdd (.ldrhImmPre c u w rn rd imm8) (preIndexed u w (s.readReg rn) (offset8 imm8))
    ∧ stopsAtOdd (.ldrhImmPost c u rn rd imm8) (postIndexed u (s.readReg rn) (offset8 imm8))
    ∧ stopsAtOdd (.ldrhRegPre c u w rn rd rm) (preIndexed u w (s.readReg rn) (s.readReg rm))
    ∧ stopsAtOdd (.ldrhRegPost c u rn rd rm) (postIndexed u (s.readReg rn) (s.readReg rm))
    ∧ stopsAtOdd (.ldrshImmPre c u w rn rd imm8) (preIndexed u w (s.readReg rn) (offset8 imm8))
    ∧ stopsAtOdd (.ldrshImmPost c u rn rd imm8) (postIndexed u (s.readReg rn) (offset8 imm8))
    ∧ stopsAtOdd (.ldrshRegPre c u w rn rd rm) (preIndexed u w (s.readReg rn) (s.readReg rm))
    ∧ stopsAtOdd (.ldrshRegPost c u rn rd rm) (postIndexed u (s.readReg rn) (s.readReg rm))
    ∧ stopsAtOdd (.strhImmPre c u w rn rd imm8) (preIndexed u w (s.readReg rn) (offset8 imm8))
    ∧ stopsAtOdd (.strhImmPost c u rn rd imm8) (postIndexed u (s.readReg rn) (offset8 imm8))
    ∧ stopsAtOdd (.strhRegPre c u w rn rd rm) (preIndexed u w (s.readReg rn) (s.readReg rm))
    ∧ stopsAtOdd (.strhRegPost c u rn rd rm) (postIndexed u (s.readReg rn) (s.readReg rm))
    ∧ (let n := ((List.range 16).filter fun k => list.getLsbD k).length
      let bytes : Word := BitVec.ofNat 32 (4 * n)
      let start : Word := if u then (if p then s.reg rn + 4 else s.reg rn)
        else (if p then s.reg rn - bytes else s.reg rn - bytes + 4)
      let final : Word := if u then s.reg rn + bytes else s.reg rn - bytes
      let inBank := if sb = true ∧ list.getLsbD 15 = false then Mode.user else s.mode
      let outBank := if sb then Mode.user else s.mode
      let loaded : State → Prop := fun t =>
        (∀ k, k < 15 → list.getLsbD k = true →
          ∀ q, remap s.sys.memmap (start + BitVec.ofNat 32 (4 * listRank list k)) = some q →
            t.regIn inBank (BitVec.ofNat 4 k) = s.wordAt (q - q % 4))
        ∧ (w = true → t.regIn s.mode rn = final)
        ∧ (∀ m r, r ≠ 15 →
          (∀ k, k < 15 → list.getLsbD k = true → physIndex m r ≠ physIndex inBank (BitVec.ofNat 4 k)) →
          (w = true → physIndex m r ≠ physIndex s.mode rn) → t.regIn m r = s.regIn m r)
        ∧ t.spsr = s.spsr ∧ MemoryKept s t ∧ DevicesKept s t
      start.toNat - start.toNat % 4 + 4 * n ≤ 2 ^ 32 → (sb = true → s.currentSpsr.isSome = true) →
      (Ready (.ldm c p u sb w rn list) s →
        (∀ j, j < n → ∃ q, remap s.sys.memmap (start + BitVec.ofNat 32 (4 * j)) = some q ∧ plainMemory q) →
        (list.getLsbD 15 = false → s.pc ≠ 0xFFFFFFFC →
          ∃ t, exec (.ldm c p u sb w rn list) s = .next t ∧ loaded t ∧ t.pc = s.pc + 4 ∧ t.cpsr = s.cpsr
            ∧ t.userBankLdm = sb ∧ t.freeIdx = s.freeIdx)
        ∧ (list.getLsbD 15 = true → ∀ last, remap s.sys.memmap (start + BitVec.ofNat 32 (4 * (n - 1))) = some last →
          let x := s.wordAt (last - last % 4)
          (sb = false → x.extractLsb' 0 2 = 0 →
            ∃ t, exec (.ldm c p u sb w rn list) s = .next t ∧ loaded t ∧ t.pc = x ∧ t.cpsr = s.cpsr
              ∧ t.userBankLdm = s.userBankLdm ∧ t.freeIdx = s.freeIdx)
          ∧ (∀ psr, sb = true → s.currentSpsr = some psr → (modeOf psr).isSome = true →
            psr.getLsbD 5 = true ∨ x.extractLsb' 0 2 = 0 →
            ∃ t, exec (.ldm c p u sb w rn list) s = .next t ∧ loaded t ∧ t.cpsr = psr ∧ t.userBankLdm = s.userBankLdm
              ∧ (psr.getLsbD 5 = true ∧ x.getLsbD 0 = true → t.pc.getLsbD 0 = false)
              ∧ (psr.getLsbD 5 = false ∨ x.getLsbD 0 = false → t.pc = x ∧ t.freeIdx = s.freeIdx))))
      ∧ (Ready (.stm c p u sb w rn list) s → s.memoryLegal = true → s.pc ≠ 0xFFFFFFFC →
        (∀ j, j < n → ∃ q, remap s.sys.memmap (start + BitVec.ofNat 32 (4 * j)) = some q ∧ plainRam q
          ∧ intoPrefetch (q - q % 4) s = false) →
        ∃ t, exec (.stm c p u sb w rn list) s = .next t
          ∧ (∀ k, k < 16 → list.getLsbD k = true →
            ∀ q, remap s.sys.memmap (start + BitVec.ofNat 32 (4 * listRank list k)) = some q →
              t.wordAt (q - q % 4) = if k = 15 then s.pc + 12 else s.regIn outBank (BitVec.ofNat 4 k))
          ∧ (∀ a, (∀ j, j < n → ∀ q, remap s.sys.memmap (start + BitVec.ofNat 32 (4 * j)) = some q →
              a < q - q % 4 ∨ q - q % 4 + 4 ≤ a) → t.byteAt a = s.byteAt a)
          ∧ (w = true → t.reg rn = final) ∧ RegistersKept s t (if w then [rn] else []) ∧ t.pc = s.pc + 4
          ∧ t.cpsr = s.cpsr ∧ t.spsr = s.spsr ∧ t.userBankLdm = s.userBankLdm ∧ t.freeIdx = s.freeIdx
          ∧ DevicesKept s t))

/-- B and BL: target, link register and frame (44_branch.md R311, 44_branch.md R312, 44_branch.md R313). -/
def Obligations.BranchAndLink : Prop :=
  ∀ (c : Cond) (off : BitVec 24) (s : State), s.pc.extractLsb' 0 2 = 0 → s.passes c = true →
    exec (.b c off) s = .next { s with pc := BitVec.ofInt 32 ((s.pc.toNat : Int) + 8 + 4 * off.toInt) }
    ∧ ∃ t, exec (.bl c off) s = .next t ∧ t.pc = BitVec.ofInt 32 ((s.pc.toNat : Int) + 8 + 4 * off.toInt)
      ∧ t.reg 14 = s.pc + 4 ∧ t.cpsr = s.cpsr ∧ OnlyRegisters s t [14] ∧ t.freeIdx = s.freeIdx

/-- BX and BLX: the low bits of the target select the state (44_branch.md R314, 44_branch.md R315, 44_branch.md R316). The model's choice or reading: log entry 6. -/
def Obligations.BranchExchange : Prop :=
  ∀ (c : Cond) (rm : RegNum) (h : Bool) (off : BitVec 24) (s : State),
    let v := s.readReg rm
    let thumbCpsr := s.cpsr ||| 0x20
    let armCpsr := s.cpsr &&& 0xFFFFFFDF
    (Ready (.bx c rm) s →
      (v.getLsbD 0 = true → exec (.bx c rm) s = .next { s with cpsr := thumbCpsr, pc := v - 1 })
      ∧ (v.extractLsb' 0 2 = 0 → exec (.bx c rm) s = .next { s with cpsr := armCpsr, pc := v })
      ∧ (v.extractLsb' 0 2 = 2 → exec (.bx c rm) s = .fault .misalignedPc))
    ∧ (Ready (.blxReg c rm) s →
      (v.getLsbD 0 = true → ∃ t, exec (.blxReg c rm) s = .next t ∧ t.pc = v - 1 ∧ t.cpsr = thumbCpsr
        ∧ t.regIn s.mode 14 = s.pc + 4 ∧ RegistersKept s t [14] ∧ t.spsr = s.spsr ∧ MemoryKept s t ∧ DevicesKept s t
        ∧ t.freeIdx = s.freeIdx ∧ t.userBankLdm = s.userBankLdm)
      ∧ (v.extractLsb' 0 2 = 0 → ∃ t, exec (.blxReg c rm) s = .next t ∧ t.pc = v ∧ t.cpsr = armCpsr
        ∧ t.regIn s.mode 14 = s.pc + 4 ∧ RegistersKept s t [14] ∧ t.spsr = s.spsr ∧ MemoryKept s t ∧ DevicesKept s t
        ∧ t.freeIdx = s.freeIdx ∧ t.userBankLdm = s.userBankLdm)
      ∧ (v.extractLsb' 0 2 = 2 → exec (.blxReg c rm) s = .fault .misalignedPc))
    ∧ ∃ t, exec (.blxImm h off) s = .next t ∧ t.cpsr = thumbCpsr ∧ t.regIn s.mode 14 = s.pc + 4
      ∧ t.pc = BitVec.ofInt 32 ((s.pc.toNat : Int) + 8 + 4 * off.toInt + 2 * (h.toNat : Int))
      ∧ RegistersKept s t [14] ∧ t.spsr = s.spsr ∧ MemoryKept s t ∧ DevicesKept s t
        ∧ t.freeIdx = s.freeIdx ∧ t.userBankLdm = s.userBankLdm

/-- MRS: all 32 bits of the CPSR, or of the SPSR of the current mode (45_psr_access.md R331, 10_state.md R37, 10_state.md R38). -/
def Obligations.StatusRegisterRead : Prop :=
  ∀ (c : Cond) (rd : RegNum) (s : State), s.pc ≠ 0xFFFFFFFC →
    (Ready (.mrs c false rd) s → ∃ t, exec (.mrs c false rd) s = .next t ∧ t.reg rd = s.cpsr ∧ t.cpsr = s.cpsr
      ∧ t.pc = s.pc + 4 ∧ OnlyRegisters s t [rd] ∧ t.freeIdx = s.freeIdx)
    ∧ (Ready (.mrs c true rd) s →
      (∀ psr, s.currentSpsr = some psr → ∃ t, exec (.mrs c true rd) s = .next t ∧ t.reg rd = psr ∧ t.cpsr = s.cpsr
        ∧ t.pc = s.pc + 4 ∧ OnlyRegisters s t [rd] ∧ t.freeIdx = s.freeIdx)
      ∧ (s.mode = .user ∨ s.mode = .system → exec (.mrs c true rd) s = .fault .noSpsr))

/-- MSR to the CPSR: the selected fields change, in User mode only the flag field (45_psr_access.md R332, 45_psr_access.md R334, 10_state.md R34, 10_state.md R35). -/
def Obligations.StatusRegisterWrite : Prop :=
  ∀ (c : Cond) (mask : BitVec 4) (rm : RegNum) (imm : RotImm) (s : State) (new : Word), s.pc ≠ 0xFFFFFFFC →
    let writes : Instr → Word → Prop := fun i v =>
      (∀ k, k < 32 → new.getLsbD k = if mask.getLsbD (k / 8) && (s.mode != .user || decide (24 ≤ k))
        then v.getLsbD k else s.cpsr.getLsbD k) → Ready i s →
      (new.getLsbD 5 = s.cpsr.getLsbD 5 → (modeOf new).isSome = true →
        exec i s = .next { s with cpsr := new, pc := s.pc + 4 })
      ∧ (new.getLsbD 5 ≠ s.cpsr.getLsbD 5 → exec i s = .fault .msrChangesT)
      ∧ (new.getLsbD 5 = s.cpsr.getLsbD 5 → modeOf new = none → exec i s = .fault .illegalMode)
    writes (.msrReg c false mask rm) (s.reg rm) ∧ writes (.msrImm c false mask imm) (rotImmValue imm)

/-- MSR to the SPSR: the selected fields of the current mode's SPSR change, whatever the value (45_psr_access.md R332, 10_state.md R37). -/
def Obligations.SavedStatusWrite : Prop :=
  ∀ (c : Cond) (mask : BitVec 4) (rm : RegNum) (imm : RotImm) (s : State), s.pc ≠ 0xFFFFFFFC →
    let writes : Instr → Word → Prop := fun i v => Ready i s →
      (∀ old, s.currentSpsr = some old → ∃ sp, exec i s = .next { s with spsr := sp, pc := s.pc + 4 }
        ∧ (∃ new, sp.get s.mode = some new ∧ ∀ k, k < 32 →
            new.getLsbD k = if mask.getLsbD (k / 8) then v.getLsbD k else old.getLsbD k)
        ∧ ∀ m, m ≠ s.mode → sp.get m = s.spsr.get m)
      ∧ (s.mode = .user ∨ s.mode = .system → exec i s = .fault .noSpsr)
    writes (.msrReg c true mask rm) (s.reg rm) ∧ writes (.msrImm c true mask imm) (rotImmValue imm)

/-- SWI enters Supervisor mode at vector 0x08 (47_exception_generating.md R361). -/
def Obligations.SoftwareInterrupt : Prop :=
  ∀ (c : Cond) (imm imm' : BitVec 24) (s : State), s.thumb = false →
    Takes (.swi c imm) s .supervisor (s.pc + 4) 0x08 false ∧ exec (.swi c imm) s = exec (.swi c imm') s

/-- Coprocessor instructions and the undefined spaces enter Undefined mode, BKPT Abort mode (46_coprocessor.md R341, 60_exceptions.md R431, 60_exceptions.md R436, 47_exception_generating.md R362, 30_encoding.md R146). The model's choice or reading: log entries 6, 24. -/
def Obligations.UndefinedAndBreakpoint : Prop :=
  ∀ (c : Cond) (p u n w : Bool) (rn rd : RegNum) (op1 crn crd cp crm lo : BitVec 4) (k1 op2 : BitVec 3) (off : BitVec 8)
    (half : BitVec 16) (hi : BitVec 20) (s : State), s.thumb = false →
    Takes (.cdp c op1 crn crd cp op2 crm) s .undefined (s.pc + 4) 0x04 false
    ∧ Takes (.ldc c p u n w rn crd cp off) s .undefined (s.pc + 4) 0x04 false
    ∧ Takes (.stc c p u n w rn crd cp off) s .undefined (s.pc + 4) 0x04 false
    ∧ Takes (.mcr c k1 crn rd cp op2 crm) s .undefined (s.pc + 4) 0x04 false
    ∧ Takes (.mrc c k1 crn rd cp op2 crm) s .undefined (s.pc + 4) 0x04 false
    ∧ Takes (.undefMem c hi lo) s .undefined (s.pc + 4) 0x04 false
    ∧ Takes (.undefMsr c n hi) s .undefined (s.pc + 4) 0x04 false
    ∧ Takes (.bkpt half) s .abort (s.pc + 4) 0x0C false

/-- NOP, ADR, ADRL and LDR = complete with the effect of their expansion (49_assembler_and_pseudo.md R381, 49_assembler_and_pseudo.md R382, 49_assembler_and_pseudo.md R383, 49_assembler_and_pseudo.md R384). The model's choice or reading: log entries 13, 34. -/
def Obligations.PseudoInstructions : Prop :=
  ∀ (c : Cond) (rd : RegNum) (u : Bool) (op1 op2 : RotImm) (value : Word) (off : BitVec 12) (s : State),
    s.pc ≠ 0xFFFFFFFC →
    (∀ i j : Instr, i.isPseudo = true → i.expand = [j] → exec i s = exec j s)
    ∧ (s.passes c = true → rd = 15 → exec (.adrl c rd u op1 op2) s = exec (.adr c rd u op1) s)
    ∧ exec .nop s = .next { s with pc := s.pc + 4 }
    ∧ (s.passes c = true → rd ≠ 15 →
      (∃ t, exec (.adr c rd u op1) s = .next t ∧ t.reg rd = offsetSum u (s.pc + 8) (rotImmValue op1) ∧ t.pc = s.pc + 4
        ∧ t.cpsr = s.cpsr ∧ OnlyRegisters s t [rd])
      ∧ (s.pc + 4 ≠ 0xFFFFFFFC → ∃ t, exec (.adrl c rd u op1 op2) s = .next t
        ∧ t.reg rd = offsetSum u (offsetSum u (s.pc + 8) (rotImmValue op1)) (rotImmValue op2)
        ∧ t.pc = s.pc + 8 ∧ t.cpsr = s.cpsr ∧ OnlyRegisters s t [rd])
      ∧ ((∃ op : RotImm, rotImmValue op = value ∨ rotImmValue op = ~~~value) →
        ∃ t, exec (.ldrPseudo c rd value u off) s = .next t ∧ t.reg rd = value ∧ t.pc = s.pc + 4
          ∧ t.cpsr = s.cpsr ∧ OnlyRegisters s t [rd])
      ∧ ((∀ op : RotImm, rotImmValue op ≠ value ∧ rotImmValue op ≠ ~~~value) →
        ∀ p, remap s.sys.memmap (offsetSum u (s.pc + 8) (offset12 off)) = some p → plainMemory p → p % 4 = 0 →
        ∃ t, exec (.ldrPseudo c rd value u off) s = .next t ∧ t.reg rd = s.wordAt p ∧ t.pc = s.pc + 4
          ∧ t.cpsr = s.cpsr ∧ OnlyRegisters s t [rd]))

/-- A load, store or swap of one register at a reserved or unused address takes a Data Abort (20_memory.md R85, 60_exceptions.md R434, 60_exceptions.md R436, 41_load_store.md R211, 92_eei_decisions.md D21, 41_load_store.md R226). The model's choice or reading: log entries 4, 18, 22, 32. -/
def Obligations.DataAbortOnUnusedAddress : Prop :=
  ∀ (c : Cond) (u w : Bool) (rn rd rm : RegNum) (imm12 : BitVec 12) (imm8 : BitVec 8) (off : ShiftImm) (s : State)
      (p : Nat),
    let aborts : Instr → Address → Prop := fun i m => Ready i s → remap s.sys.memmap m.addr = some p →
      (regionOf p).kind = .unmapped →
      ∃ s1 t, exec i s = .next t ∧ Entered s1 t .abort (s.pc + 8) 0x10 false
        ∧ s1.cpsr = s.cpsr ∧ s1.spsr = s.spsr ∧ MemoryKept s s1
        ∧ DevicesKept { s with sys := { s.sys with feedArmed := s1.sys.feedArmed } } s1
        ∧ (p < 0xE0000000 ∨ 0xE0200000 ≤ p → s1.sys = s.sys) ∧ RegistersKept s s1 (m.written rn)
        ∧ (∀ v, m.wb = some v → s1.regIn s.mode rn = s.reg rn ∨ s1.regIn s.mode rn = v)
    aborts (.ldrImmPre c u w rn rd imm12) (preIndexed u w (s.readReg rn) (offset12 imm12))
    ∧ aborts (.ldrImmPost c u rn rd imm12) (postIndexed u (s.readReg rn) (offset12 imm12))
    ∧ aborts (.ldrRegPre c u w rn rd off) (preIndexed u w (s.readReg rn) (offsetReg off s))
    ∧ aborts (.ldrRegPost c u rn rd off) (postIndexed u (s.readReg rn) (offsetReg off s))
    ∧ aborts (.strImmPre c u w rn rd imm12) (preIndexed u w (s.readReg rn) (offset12 imm12))
    ∧ aborts (.strImmPost c u rn rd imm12) (postIndexed u (s.readReg rn) (offset12 imm12))
    ∧ aborts (.strRegPre c u w rn rd off) (preIndexed u w (s.readReg rn) (offsetReg off s))
    ∧ aborts (.strRegPost c u rn rd off) (postIndexed u (s.readReg rn) (offsetReg off s))
    ∧ aborts (.ldrbImmPre c u w rn rd imm12) (preIndexed u w (s.readReg rn) (offset12 imm12))
    ∧ aborts (.ldrbImmPost c u rn rd imm12) (postIndexed u (s.readReg rn) (offset12 imm12))
    ∧ aborts (.ldrbRegPre c u w rn rd off) (preIndexed u w (s.readReg rn) (offsetReg off s))
    ∧ aborts (.ldrbRegPost c u rn rd off) (postIndexed u (s.readReg rn) (offsetReg off s))
    ∧ aborts (.strbImmPre c u w rn rd imm12) (preIndexed u w (s.readReg rn) (offset12 imm12))
    ∧ aborts (.strbImmPost c u rn rd imm12) (postIndexed u (s.readReg rn) (offset12 imm12))
    ∧ aborts (.strbRegPre c u w rn rd off) (preIndexed u w (s.readReg rn) (offsetReg off s))
    ∧ aborts (.strbRegPost c u rn rd off) (postIndexed u (s.readReg rn) (offsetReg off s))
    ∧ aborts (.ldrhImmPre c u w rn rd imm8) (preIndexed u w (s.readReg rn) (offset8 imm8))
    ∧ aborts (.ldrhImmPost c u rn rd imm8) (postIndexed u (s.readReg rn) (offset8 imm8))
    ∧ aborts (.ldrhRegPre c u w rn rd rm) (preIndexed u w (s.readReg rn) (s.readReg rm))
    ∧ aborts (.ldrhRegPost c u rn rd rm) (postIndexed u (s.readReg rn) (s.readReg rm))
    ∧ aborts (.strhImmPre c u w rn rd imm8) (preIndexed u w (s.readReg rn) (offset8 imm8))
    ∧ aborts (.strhImmPost c u rn rd imm8) (postIndexed u (s.readReg rn) (offset8 imm8))
    ∧ aborts (.strhRegPre c u w rn rd rm) (preIndexed u w (s.readReg rn) (s.readReg rm))
    ∧ aborts (.strhRegPost c u rn rd rm) (postIndexed u (s.readReg rn) (s.readReg rm))
    ∧ aborts (.ldrsbImmPre c u w rn rd imm8) (preIndexed u w (s.readReg rn) (offset8 imm8))
    ∧ aborts (.ldrsbImmPost c u rn rd imm8) (postIndexed u (s.readReg rn) (offset8 imm8))
    ∧ aborts (.ldrsbRegPre c u w rn rd rm) (preIndexed u w (s.readReg rn) (s.readReg rm))
    ∧ aborts (.ldrsbRegPost c u rn rd rm) (postIndexed u (s.readReg rn) (s.readReg rm))
    ∧ aborts (.ldrshImmPre c u w rn rd imm8) (preIndexed u w (s.readReg rn) (offset8 imm8))
    ∧ aborts (.ldrshImmPost c u rn rd imm8) (postIndexed u (s.readReg rn) (offset8 imm8))
    ∧ aborts (.ldrshRegPre c u w rn rd rm) (preIndexed u w (s.readReg rn) (s.readReg rm))
    ∧ aborts (.ldrshRegPost c u rn rd rm) (postIndexed u (s.readReg rn) (s.readReg rm))
    ∧ aborts (.swp c rn rd rm) { addr := s.reg rn, wb := none }
    ∧ aborts (.swpb c rn rd rm) { addr := s.reg rn, wb := none }

/-- Stores to Flash, to the boot block and into the prefetched words stop the machine (20_memory.md R77, 20_memory.md R90, 20_memory.md R100, 20_memory.md R75, 20_memory.md R81, 20_memory.md R83, 20_memory.md R85, 70_reset_and_hazards.md R646). The model's choice or reading: log entries 17, 20, 30, 32. -/
def Obligations.StoresThatStop : Prop :=
  ∀ (a v : Word) (w : Width) (s : State) (p q : Nat), remap s.sys.memmap a = some p →
    (alignAddress w p = some q →
      (regionOf p = .flash → memWrite a w v s = .stop .flashStore)
      ∧ (regionOf p = .boot → memWrite a w v s = .stop .bootStore)
      ∧ (plainRam p → intoPrefetch q s = true → memWrite a w v s = .stop .storeIntoPrefetch)
      ∧ (plainRam p → intoPrefetch q s = false → ∃ t, memWrite a w v s = .ok () t))
    ∧ (s.pc.extractLsb' 0 2 = 0 →
      (intoPrefetch q s = true ↔ ∃ f,
        (remap s.sys.memmap (s.pc + 4) = some f ∨ remap s.sys.memmap (s.pc + 8) = some f) ∧ f ≤ q ∧ q < f + 4))
    ∧ ((regionOf p).kind = .device → wholeWord w p = false →
      memWrite a w v s = .stop .partialPeripheralAccess ∧ memRead a w s = .stop .partialPeripheralAccess)
    ∧ (∀ slot, regionOf p = .apb slot → slot ≠ 11 → slot ≠ 127 → wholeWord w p = true →
      memWrite a w v s = .stop .undescribedRegister)
    ∧ (0xFFFFC000 ≤ p → p < 0xFFFFF000 → w.bytes = 4 → p % 4 = 0 →
      memWrite a w v s = .stop .undescribedRegister
      ∧ ∃ x idx, memRead a w s = .ok x { s with freeIdx := idx })

/-- Registers of two modes share storage exactly as the bank table says (10_state.md R24, 10_state.md R25). -/
def Obligations.RegisterBanks : Prop :=
  ∀ (s : State) (m m' : Mode) (r r' : RegNum) (v : Word), r ≠ 15 → r' ≠ 15 →
    let user : Mode → Mode := fun x => if x = .system then .user else x
    let same := r = r' ∧ (r.toNat < 8 ∨ (r.toNat < 13 ∧ (m = .fiq ↔ m' = .fiq)) ∨ user m = user m')
    (same → (s.setRegIn m r v).regIn m' r' = v)
    ∧ (¬ same → (s.setRegIn m r v).regIn m' r' = s.regIn m' r')
    ∧ (s.setRegIn m r v).pc = s.pc

/-- A store to RAM is read back by bytes, halfwords and words, little-endian (20_memory.md R70, 20_memory.md R72, 20_memory.md R76, 20_memory.md R77, 20_memory.md R92). -/
def Obligations.MemoryIsLittleEndian : Prop :=
  ∀ (a v : Word) (s : State), s.memoryLegal = true → 0x40 ≤ a.toNat → plainRam a.toNat → a.toNat % 4 = 0 → intoPrefetch a.toNat s = false →
    ∃ t, memWrite a .word v s = .ok () t
      ∧ memRead a .word t = .ok v t
      ∧ memRead a .half t = .ok ((v.extractLsb' 0 16).setWidth 32) t
      ∧ memRead (a + 2) .half t = .ok ((v.extractLsb' 16 16).setWidth 32) t
      ∧ (∀ k, k < 4 → memRead (a + BitVec.ofNat 32 k) .byte t = .ok ((v.extractLsb' (8 * k) 8).setWidth 32) t)
      ∧ ∀ b x, b ≠ a → 0x40 ≤ b.toNat → plainMemory b.toNat → b.toNat % 4 = 0 → memRead b .word s = .ok x s →
        memRead b .word t = .ok x t

/-- The 64 bytes at 0 are overlaid according to MEMMAP.MAP (20_memory.md R88). -/
def Obligations.VectorRemap : Prop :=
  ∀ a : Word,
    (a.toNat < 0x40 → remap 0 a = some (0x7FFFE000 + a.toNat) ∧ remap 1 a = some a.toNat
      ∧ remap 2 a = some (0x40000000 + a.toNat)
      ∧ ∀ (s : State) (w : Width) (v : Word), s.sys.memmap = 3 →
        memRead a w s = .stop .memmapReserved ∧ memWrite a w v s = .stop .memmapReserved
        ∧ (s.pc = a → fetch s = .stop .memmapReserved))
    ∧ (0x40 ≤ a.toNat → ∀ map, remap map a = some a.toNat)

/-- Entry into each exception saves and changes exactly what the entry sequence says (60_exceptions.md R436, 20_memory.md R87). -/
def Obligations.ExceptionEntry : Prop :=
  ∀ s : State,
    let next := s.pc + (if s.thumb then 2 else 4)
    Entered s (takeException .undefinedInstruction s) .undefined next 0x04 false
    ∧ Entered s (takeException .softwareInterrupt s) .supervisor next 0x08 false
    ∧ Entered s (takeException .prefetchAbort s) .abort (s.pc + 4) 0x0C false
    ∧ Entered s (takeException .dataAbort s) .abort (s.pc + 8) 0x10 false
    ∧ Entered s (takeException .irq s) .irq (s.pc + 4) 0x18 false
    ∧ Entered s (takeException .fiq s) .fiq (s.pc + 4) 0x1C true

/-- A boundary takes the inputs in, sets EXTINT by level or edge, and checks FIQ before IRQ (60_exceptions.md R435, 60_exceptions.md R436, 60_exceptions.md R439, 60_exceptions.md R440, 60_exceptions.md R461, 60_exceptions.md R485, 60_exceptions.md R486, 60_exceptions.md R488, 60_exceptions.md R489, 61_platform_devices.md R548, 61_platform_devices.md R553). The model's choice or reading: log entries 8, 9, 26, 39. -/
def Obligations.InterruptsAtTheBoundary : Prop :=
  ∀ s : State,
    let b := atBoundary s
    let active : Nat → Prop := fun k =>
      (s.pinConn.pinsel[4]).extractLsb' (20 + 2 * k) 2 = 1 ∧ b.env.pins.getLsbD k = s.ext.extpolar.getLsbD k
    (s.env.inputs = [] → b.env = { s.env with pinPrev := s.env.pins } ∧ s.env.resetAsked = none)
    ∧ (∀ i rest, s.env.inputs = i :: rest →
        b.env = { lines := i.lines, pins := i.pins, pinPrev := s.env.pins, inputs := rest }
        ∧ s.env.resetAsked = i.reset)
    ∧ (∀ k, k < 4 → (b.ext.extint.getLsbD k = true ↔ s.ext.extint.getLsbD k = true
        ∨ (s.ext.extmode.getLsbD k = false ∧ active k)
        ∨ (s.ext.extmode.getLsbD k = true ∧ active k ∧ b.env.pins.getLsbD k ≠ s.env.pins.getLsbD k)))
    ∧ b = { s with
        env := b.env
        ext := { s.ext with extint := b.ext.extint }
        sys := { s.sys with pllWait := s.sys.pllWait - 1, oscWait := s.sys.oscWait - 1 } }
    ∧ (s.env.resetAsked = none → s.power = .normal →
      (b.vicFiqStatus ≠ 0 → b.fiqDisabled = false → ∃ t, step s = .next t ∧ Entered b t .fiq (s.pc + 4) 0x1C true)
      ∧ ((b.vicFiqStatus = 0 ∨ b.fiqDisabled = true) → (∃ i, b.eligible i = true) → b.irqDisabled = false →
          ∃ t, step s = .next t ∧ Entered b t .irq (s.pc + 4) 0x18 false)
      ∧ ((b.vicFiqStatus = 0 ∨ b.fiqDisabled = true) → ((∀ i, b.eligible i = false) ∨ b.irqDisabled = true) →
          boundary s = .run b))

/-- A halted machine stays halted until its wake-up event; then the PM bits read 0 (60_exceptions.md R487, 60_exceptions.md R490, 60_exceptions.md R492, 60_exceptions.md R440, 92_eei_decisions.md D25). The model's choice or reading: log entries 21, 41, 46. -/
def Obligations.HaltingAndWaking : Prop :=
  ∀ s : State, s.env.resetAsked = none → s.power ≠ .normal →
    let b := atBoundary s
    let woken := { b with power := .normal, sys := { b.sys with pcon := b.sys.pcon &&& 0x1C } }
    let active : Nat → Prop := fun k =>
      (k < 4 ∧ b.ext.extint.getLsbD k = true) ∨ (k = 4 ∧ b.env.lines.getLsbD 21 = true)
      ∨ (k = 5 ∧ b.env.lines.getLsbD 22 = true) ∨ (k = 6 ∧ b.env.lines.getLsbD 23 = true)
      ∨ (k = 7 ∧ b.env.lines.getLsbD 17 = true)
      ∨ (k = 14 ∧ b.env.lines.getLsbD 20 = true ∧ s.sys.pcon.getLsbD 3 = false
          ∧ ¬ (s.sys.pcon.getLsbD 2 = true ∧ s.power = .powerDown))
      ∨ (k = 15 ∧ b.env.lines.getLsbD 13 = true)
    let quiet := (s.power = .idle ∧ b.vicIrqStatus = 0 ∧ b.vicFiqStatus = 0)
      ∨ (s.power ≠ .idle ∧ ∀ k, k < 16 → ¬ (b.ext.intwake.getLsbD k = true ∧ active k))
    let fiq := woken.vicFiqStatus ≠ 0 ∧ woken.fiqDisabled = false
    let irq := (∃ i, woken.eligible i = true) ∧ woken.irqDisabled = false
    (quiet → step s = .next b)
    ∧ (¬ quiet → ¬ fiq → ¬ irq → boundary s = .run woken)
    ∧ (¬ quiet → fiq → step s = .next (takeException .fiq woken))
    ∧ (¬ quiet → ¬ fiq → irq → step s = .next (takeException .irq woken))

/-- A reset leaves the state the reset rules give (70_reset_and_hazards.md R630, 70_reset_and_hazards.md R631, 70_reset_and_hazards.md R632, 70_reset_and_hazards.md R633, 70_reset_and_hazards.md R635, 70_reset_and_hazards.md R648, 60_exceptions.md R492, 62_pin_connect.md R620, 62_pin_connect.md R622, 62_pin_connect.md R623). The model's choice or reading: log entry 23. -/
def Obligations.ResetOfTheRunningChip : Prop :=
  ∀ (s : State) (cause : ResetCause), s.env.resetAsked = some cause →
    (cause = .brownOut → s.sys.pcon.getLsbD 3 = false ∧ s.sys.pcon.getLsbD 4 = false
      ∧ (s.power = .powerDown → s.sys.pcon.getLsbD 2 = false)) →
    ∃ t, step s = .next t ∧ t.mode = .supervisor ∧ t.thumb = false ∧ t.irqDisabled = true ∧ t.fiqDisabled = true
      ∧ t.pc = 0 ∧ t.power = .normal ∧ t.mem = s.mem ∧ t.sramPending = none ∧ t.vic = State.reset.vic
      ∧ t.ext = State.reset.ext
      ∧ (∃ nsel : Byte, t.sys =
          { mamcr := 0, mamtim := 7, memmap := 1, pllcon := 0, pllcfg := 0#8 ++ nsel ++ 0#16, pllConEff := 0,
            pllCfgEff := 0#8 ++ nsel ++ 0#16, feedArmed := false, pllWait := 0, pcon := 0, pconp := 0x04280FFE,
            cclkcfg := 0, usbclkcfg := 0, clksrcsel := 0, scs := 0, oscWait := 0, irctrim := 0xA0, pclksel0 := 0,
            pclksel1 := 0 })
      ∧ (∀ n : Fin 11, n ≠ 10 → t.pinConn.pinsel[n] = 0) ∧ t.pinConn.pinsel[10] &&& 0xFFFFFFF7 = 0
      ∧ (∀ n : Fin 10, t.pinConn.pinmode[n] = 0)
      ∧ t.emc = (if cause ≠ .brownOut ∧ s.sys.scs.getLsbD 1 = true then s.emc else State.reset.emc)
      ∧ t.userBankLdm = false ∧ t.env.pinPrev = t.env.pins

/-- A word store to a VIC register sets, clears or replaces as the register says (60_exceptions.md R467, 60_exceptions.md R468, 60_exceptions.md R470, 60_exceptions.md R471, 60_exceptions.md R472). -/
def Obligations.VicRegisterWrites : Prop :=
  ∀ (s : State) (v : Word), s.mode ≠ .user ∨ s.vic.protection = false →
    memWrite 0xFFFFF018 .word v s = .ok () { s with vic := { s.vic with softInt := s.vic.softInt ||| v } }
    ∧ memWrite 0xFFFFF01C .word v s = .ok () { s with vic := { s.vic with softInt := s.vic.softInt &&& ~~~v } }
    ∧ memWrite 0xFFFFF010 .word v s = .ok () { s with vic := { s.vic with intEnable := s.vic.intEnable ||| v } }
    ∧ memWrite 0xFFFFF014 .word v s = .ok () { s with vic := { s.vic with intEnable := s.vic.intEnable &&& ~~~v } }
    ∧ memWrite 0xFFFFF00C .word v s = .ok () { s with vic := { s.vic with intSelect := v } }
    ∧ memRead 0xFFFFF018 .word s = .ok s.vic.softInt s ∧ memRead 0xFFFFF010 .word s = .ok s.vic.intEnable s
    ∧ memRead 0xFFFFF00C .word s = .ok s.vic.intSelect s

/-- The VIC: which inputs drive its words, which channels are eligible, and which of them it serves (60_exceptions.md R461, 60_exceptions.md R462, 60_exceptions.md R463, 60_exceptions.md R464, 60_exceptions.md R469, 60_exceptions.md R473, 60_exceptions.md R474, 60_exceptions.md R479, 60_exceptions.md R492, 61_platform_devices.md R553). The model's choice or reading: log entries 9, 33, 41. -/
def Obligations.VicWinner : Prop :=
  ∀ s : State,
    (∀ k, k < 32 → (s.requests.getLsbD k = true ↔
      (k = 12 ∧ s.sys.pllConEff.getLsbD 0 = true ∧ s.sys.pllWait = 0)
      ∨ (14 ≤ k ∧ k ≤ 17 ∧ s.ext.extint.getLsbD (k - 14) = true)
      ∨ (k ≠ 1 ∧ k ≠ 12 ∧ k ≠ 14 ∧ k ≠ 15 ∧ k ≠ 16 ∧ s.env.lines.getLsbD k = true
        ∧ (k = 20 → s.sys.pcon.getLsbD 3 = false ∧ ¬ (s.sys.pcon.getLsbD 2 = true ∧ s.power = .powerDown)))))
    ∧ (∀ k, k < 32 → s.vicRaw.getLsbD k = (s.requests.getLsbD k || s.vic.softInt.getLsbD k)
      ∧ s.vicIrqStatus.getLsbD k = (s.vicRaw.getLsbD k && s.vic.intEnable.getLsbD k && !s.vic.intSelect.getLsbD k)
      ∧ s.vicFiqStatus.getLsbD k = (s.vicRaw.getLsbD k && s.vic.intEnable.getLsbD k && s.vic.intSelect.getLsbD k))
    ∧ (s.mode ≠ .user ∨ s.vic.protection = false →
      memRead 0xFFFFF000 .word s = .ok s.vicIrqStatus s ∧ memRead 0xFFFFF004 .word s = .ok s.vicFiqStatus s
      ∧ memRead 0xFFFFF008 .word s = .ok s.vicRaw s
      ∧ ∀ v, ∀ a ∈ ([0xFFFFF000, 0xFFFFF004, 0xFFFFF008] : List Word), memWrite a .word v s = .ok () s)
    ∧ (∀ i : Fin 32, s.eligible i = true ↔ s.vicIrqStatus.getLsbD i.val = true
      ∧ s.vic.swPriorityMask.getLsbD (s.vic.vectPriority[i]).toNat = true
      ∧ ∀ l, l < 16 → s.vic.inService.getLsbD l = true → (s.vic.vectPriority[i]).toNat < l)
    ∧ (∀ w, s.irqWinner = some w → s.eligible w = true ∧ ∀ i, s.eligible i = true →
      (s.vic.vectPriority[w]).toNat < (s.vic.vectPriority[i]).toNat
        ∨ ((s.vic.vectPriority[w]).toNat = (s.vic.vectPriority[i]).toNat ∧ w ≤ i))
    ∧ (s.irqWinner = none ↔ ∀ i, s.eligible i = false)
    ∧ (s.irqLine = true ↔ ∃ i, s.eligible i = true)
    ∧ (s.fiqLine = true ↔ s.vicFiqStatus ≠ 0)

/-- VICAddress moves the levels in service; the vector, priority and mask registers; VICProtection shuts User mode out (60_exceptions.md R465, 60_exceptions.md R468, 60_exceptions.md R471, 60_exceptions.md R475, 60_exceptions.md R476, 60_exceptions.md R477, 60_exceptions.md R478, 60_exceptions.md R479, 60_exceptions.md R480, 92_eei_decisions.md D23, 92_eei_decisions.md D24). -/
def Obligations.VicAddressAndProtection : Prop :=
  ∀ (s : State) (v : Word),
    (s.mode ≠ .user ∨ s.vic.protection = false →
      (∀ w, s.irqWinner = some w → ∃ t, memRead 0xFFFFFF00 .word s = .ok s.vic.vectAddr[w] t
        ∧ t.vic.address = s.vic.vectAddr[w]
        ∧ (∀ l, l < 16 → t.vic.inService.getLsbD l
            = (s.vic.inService.getLsbD l || decide (l = (s.vic.vectPriority[w]).toNat)))
        ∧ (∀ i, (s.vic.vectPriority[w]).toNat ≤ (s.vic.vectPriority[i]).toNat → t.eligible i = false)
        ∧ t = { s with vic := { s.vic with address := t.vic.address, inService := t.vic.inService } })
      ∧ (s.irqWinner = none → memRead 0xFFFFFF00 .word s = .ok s.vic.address s)
      ∧ ∃ t, memWrite 0xFFFFFF00 .word v s = .ok () t
        ∧ t = { s with vic := { s.vic with address := v, inService := t.vic.inService } }
        ∧ ∀ l, l < 16 → t.vic.inService.getLsbD l
            = (s.vic.inService.getLsbD l && decide (∃ k, k < l ∧ s.vic.inService.getLsbD k = true)))
    ∧ (s.mode ≠ .user ∨ s.vic.protection = false →
      (∀ n : Fin 32,
        memWrite (0xFFFFF100 + 4 * BitVec.ofNat 32 n.val) .word v s
          = .ok () { s with vic := { s.vic with vectAddr := s.vic.vectAddr.set n v } }
        ∧ memRead (0xFFFFF100 + 4 * BitVec.ofNat 32 n.val) .word s = .ok s.vic.vectAddr[n] s
        ∧ memWrite (0xFFFFF200 + 4 * BitVec.ofNat 32 n.val) .word v s
          = .ok () { s with vic := { s.vic with vectPriority := s.vic.vectPriority.set n (v.extractLsb' 0 4) } }
        ∧ ∃ x idx, memRead (0xFFFFF200 + 4 * BitVec.ofNat 32 n.val) .word s = .ok x { s with freeIdx := idx }
          ∧ x.extractLsb' 0 4 = s.vic.vectPriority[n])
      ∧ memWrite 0xFFFFF024 .word v s = .ok () { s with vic := { s.vic with swPriorityMask := v.extractLsb' 0 16 } }
      ∧ (∃ x idx, memRead 0xFFFFF024 .word s = .ok x { s with freeIdx := idx }
        ∧ x.extractLsb' 0 16 = s.vic.swPriorityMask)
      ∧ ∀ a ∈ ([0xFFFFF014, 0xFFFFF01C] : List Word), ∃ x idx, memRead a .word s = .ok x { s with freeIdx := idx })
    ∧ (s.mode ≠ .user →
      memWrite 0xFFFFF020 .word v s = .ok () { s with vic := { s.vic with protection := v.getLsbD 0 } }
      ∧ ∃ x idx, memRead 0xFFFFF020 .word s = .ok x { s with freeIdx := idx }
        ∧ x.getLsbD 0 = s.vic.protection)
    ∧ (s.mode = .user →
      memRead 0xFFFFF020 .word s = .abort s ∧ memWrite 0xFFFFF020 .word v s = .abort s
      ∧ (s.vic.protection = true → ∀ (off : Nat) (r : VicReg), off < 0x1000 → off % 4 = 0 →
          VicReg.ofOffset off = some r →
          memRead (0xFFFFF000 + BitVec.ofNat 32 off) .word s = .abort s
          ∧ memWrite (0xFFFFF000 + BitVec.ofNat 32 off) .word v s = .abort s))

/-- PLLCON and PLLCFG take effect by the feed 0xAA, 0x55 with no other APB access between (61_platform_devices.md R551, 61_platform_devices.md R552, 61_platform_devices.md R553, 61_platform_devices.md R556, 92_eei_decisions.md D27). The model's choice or reading: log entry 9. -/
def Obligations.PllFeedSequence : Prop :=
  ∀ (s : State) (v1 v2 x : Word),
    (v1.extractLsb' 0 8 = 0xAA → v2.extractLsb' 0 8 = 0x55 →
      ∃ s1, memWrite 0xE01FC08C .word v1 s = .ok () s1
        ∧ (∃ t, memWrite 0xE01FC08C .word v2 s1 = .ok () t ∧ t.sys.pllConEff = s.sys.pllcon
          ∧ t.sys.pllCfgEff = s.sys.pllcfg)
        ∧ ∃ y s2 t, memRead 0xE01FC080 .word s1 = .ok y s2 ∧ memWrite 0xE01FC08C .word v2 s2 = .ok () t
          ∧ t.sys.pllConEff = s.sys.pllConEff ∧ t.sys.pllCfgEff = s.sys.pllCfgEff)
    ∧ (v1.extractLsb' 0 8 ≠ 0xAA → s.sys.feedArmed = false →
      ∃ s1 t, memWrite 0xE01FC08C .word v1 s = .ok () s1 ∧ memWrite 0xE01FC08C .word v2 s1 = .ok () t
        ∧ t.sys.pllConEff = s.sys.pllConEff ∧ t.sys.pllCfgEff = s.sys.pllCfgEff)
    ∧ (∃ t, memWrite 0xE01FC080 .word x s = .ok () t ∧ t.sys.pllcon = x.extractLsb' 0 2
      ∧ t.sys.pllConEff = s.sys.pllConEff ∧ t.sys.pllCfgEff = s.sys.pllCfgEff)
    ∧ (∃ t, memWrite 0xE01FC084 .word x s = .ok () t ∧ t.sys.pllcfg = x &&& 0x00FF7FFF
      ∧ t.sys.pllConEff = s.sys.pllConEff ∧ t.sys.pllCfgEff = s.sys.pllCfgEff)
    ∧ memWrite 0xE01FC088 .word x s = .ok () { s with sys := { s.sys with feedArmed := false } }
    ∧ (s.sys.pllCfgEff &&& 0xFF008000 = 0 →
      ∃ y idx, memRead 0xE01FC088 .word s = .ok y { s with sys := { s.sys with feedArmed := false }, freeIdx := idx }
        ∧ y.extractLsb' 0 15 = s.sys.pllCfgEff.extractLsb' 0 15
        ∧ y.extractLsb' 16 8 = s.sys.pllCfgEff.extractLsb' 16 8 ∧ y.extractLsb' 24 2 = s.sys.pllConEff
        ∧ (s.sys.pllConEff.getLsbD 0 = false → y.getLsbD 26 = false)
        ∧ (s.sys.pllConEff.getLsbD 0 = true → s.sys.pllWait = 0 → y.getLsbD 26 = true))
    ∧ (v2.extractLsb' 0 8 = 0x55 → s.sys.feedArmed = true →
      (s.sys.pllcon.getLsbD 0 = false ∨ (s.sys.pllConEff.getLsbD 0 = true ∧ s.sys.pllcfg = s.sys.pllCfgEff)) →
      memWrite 0xE01FC08C .word v2 s = .ok () { s with sys := { s.sys with
        pllConEff := s.sys.pllcon, pllCfgEff := s.sys.pllcfg, feedArmed := false } })

/-- System control block: what each write stores, stops or selects, what each read gives, and the frame (61_platform_devices.md R541, 20_memory.md R89, 60_exceptions.md R492, 61_platform_devices.md R550, 61_platform_devices.md R557, 61_platform_devices.md R560, 61_platform_devices.md R548, 61_platform_devices.md R563, 61_platform_devices.md R564, 61_platform_devices.md R566, 92_eei_decisions.md D26, 92_eei_decisions.md D27). The model's choice or reading: log entry 9. -/
def Obligations.SystemRegisterWrites : Prop :=
  ∀ (s : State) (v : Word),
    let sys : SysControl := { s.sys with feedArmed := false }
    let stores : Word → SysControl → Prop := fun a x => memWrite a .word v s = .ok () { s with sys := x }
    let stops : Word → Fault → Prop := fun a f => memWrite a .word v s = .stop f
    let selects : PowerMode → Bool → Bool → Bool → Prop := fun m pm2 pm1 pm0 =>
      v.getLsbD 7 = pm2 → v.getLsbD 1 = pm1 → v.getLsbD 0 = pm0 →
        memWrite 0xE01FC0C0 .word v s = .ok () { s with
          power := m
          sys := { sys with
            pcon := v.extractLsb' 0 8 &&& 0x9F
            pllConEff := if m = .powerDown then 0 else s.sys.pllConEff } }
    let gives : Word → Word → Word → Prop := fun a described x =>
      ∃ y idx, memRead a .word s = .ok y { s with sys := sys, freeIdx := idx } ∧ y &&& described = x &&& described
    (if v.extractLsb' 0 2 = 3 then stops 0xE01FC000 .reservedFieldValue
      else stores 0xE01FC000 { sys with mamcr := v.extractLsb' 0 2 })
    ∧ (if v.extractLsb' 0 3 = 0 then stops 0xE01FC004 .reservedFieldValue
      else stores 0xE01FC004 { sys with mamtim := v.extractLsb' 0 3 })
    ∧ (if v.extractLsb' 0 2 = 3 then stops 0xE01FC040 .reservedFieldValue
      else stores 0xE01FC040 { sys with memmap := v.extractLsb' 0 2 })
    ∧ (if v.extractLsb' 0 2 = 3 then stops 0xE01FC10C .reservedFieldValue
      else if v.extractLsb' 0 2 ≠ s.sys.clksrcsel ∧ s.sys.pllConEff.getLsbD 1 = true then
        stops 0xE01FC10C .clockSwitchWhileConnected
      else stores 0xE01FC10C { sys with clksrcsel := v.extractLsb' 0 2 })
    ∧ selects .normal false false false ∧ selects .idle false false true ∧ selects .sleep true false true
    ∧ selects .powerDown false true false
    ∧ ((v.getLsbD 1 = true ∧ v.getLsbD 0 = true) ∨ (v.getLsbD 7 = true ∧ v.getLsbD 0 = false) →
      stops 0xE01FC0C0 .reservedFieldValue)
    ∧ stores 0xE01FC0C4 { sys with pconp := v &&& 0xFFF87FFE }
    ∧ stores 0xE01FC104 { sys with cclkcfg := v.extractLsb' 0 8 }
    ∧ stores 0xE01FC108 { sys with usbclkcfg := v.extractLsb' 0 4 }
    ∧ stores 0xE01FC1A4 { sys with irctrim := v.extractLsb' 0 8 }
    ∧ (∃ x, stores 0xE01FC1A8 { sys with pclksel0 := x } ∧ ∀ k, k < 32 → x.getLsbD k
        = if (k = 18 ∨ k = 19) ∧ v.getLsbD 19 = false ∧ v.getLsbD 18 = true then s.sys.pclksel0.getLsbD k
          else v.getLsbD k)
    ∧ (∃ x, stores 0xE01FC1AC { sys with pclksel1 := x } ∧ ∀ k, k < 32 → x.getLsbD k
        = (v.getLsbD k && !decide (k ∈ [8, 9, 26, 27, 30, 31])))
    ∧ (∃ wait idx, memWrite 0xE01FC1A0 .word v s = .ok () { s with
          sys := { sys with scs := v.extractLsb' 0 8 &&& 0x3B, oscWait := wait }
          freeIdx := idx }
        ∧ (v.getLsbD 5 = false ∨ s.sys.scs.getLsbD 5 = true → wait = s.sys.oscWait ∧ idx = s.freeIdx))
    ∧ gives 0xE01FC000 0x3 (s.sys.mamcr.setWidth 32) ∧ gives 0xE01FC004 0x7 (s.sys.mamtim.setWidth 32)
    ∧ gives 0xE01FC040 0x3 (s.sys.memmap.setWidth 32) ∧ gives 0xE01FC080 0x3 (s.sys.pllcon.setWidth 32)
    ∧ gives 0xE01FC084 0x00FF7FFF s.sys.pllcfg ∧ gives 0xE01FC0C0 0x9F (s.sys.pcon.setWidth 32)
    ∧ gives 0xE01FC0C4 0xFFF87FFE s.sys.pconp ∧ gives 0xE01FC104 0xFF (s.sys.cclkcfg.setWidth 32)
    ∧ gives 0xE01FC108 0xF (s.sys.usbclkcfg.setWidth 32) ∧ gives 0xE01FC10C 0x3 (s.sys.clksrcsel.setWidth 32)
    ∧ gives 0xE01FC1A0 0x3B (s.sys.scs.setWidth 32) ∧ gives 0xE01FC1A4 0xFF (s.sys.irctrim.setWidth 32)
    ∧ gives 0xE01FC1A8 0xFFFFFFFF s.sys.pclksel0 ∧ gives 0xE01FC1AC 0xFFFFFFFF s.sys.pclksel1
    ∧ (s.sys.scs.getLsbD 6 = false → s.sys.scs.getLsbD 5 = false → gives 0xE01FC1A0 0x40 0)
    ∧ (s.sys.scs.getLsbD 5 = true → s.sys.oscWait = 0 → gives 0xE01FC1A0 0x40 0x40)

/-- EXTINT, INTWAKE, EXTMODE, EXTPOLAR, PINSEL, PINMODE and the EMC: what each write stores and each read gives (60_exceptions.md R486, 60_exceptions.md R487, 60_exceptions.md R488, 60_exceptions.md R489, 62_pin_connect.md R620, 62_pin_connect.md R621, 62_pin_connect.md R622, 62_pin_connect.md R623, 61_platform_devices.md R546, 61_platform_devices.md R566, 92_eei_decisions.md D26, 92_eei_decisions.md D27). The model's choice or reading: log entries 12, 30, 31, 39, 40. -/
def Obligations.PinAndInterruptRegisterWrites : Prop :=
  ∀ (s : State) (v : Word),
    let sys : SysControl := { s.sys with feedArmed := false }
    let active : Nat → Prop := fun k =>
      (s.pinConn.pinsel[4]).extractLsb' (20 + 2 * k) 2 = 1 ∧ s.env.pins.getLsbD k = s.ext.extpolar.getLsbD k
    let gives : Word → Word → Word → Prop := fun a described x =>
      ∃ y idx, memRead a .word s = .ok y { s with sys := sys, freeIdx := idx } ∧ y &&& described = x &&& described
    let emc : List Word :=
      [0xFFE08000, 0xFFE08008, 0xFFE08020, 0xFFE08024, 0xFFE08028, 0xFFE08030, 0xFFE08034, 0xFFE08038, 0xFFE0803C,
        0xFFE08040, 0xFFE08044, 0xFFE08048, 0xFFE0804C, 0xFFE08050, 0xFFE08054, 0xFFE08058, 0xFFE08880]
      ++ ([0, 1, 2, 3] : List Word).flatMap fun n =>
        [0xFFE08100 + 0x20 * n, 0xFFE08104 + 0x20 * n, 0xFFE08200 + 0x20 * n, 0xFFE08204 + 0x20 * n,
          0xFFE08208 + 0x20 * n, 0xFFE0820C + 0x20 * n, 0xFFE08210 + 0x20 * n, 0xFFE08214 + 0x20 * n,
          0xFFE08218 + 0x20 * n]
    (∃ e, memWrite 0xE01FC140 .word v s = .ok () { s with sys := sys, ext := { s.ext with extint := e } }
      ∧ ∀ k, k < 4 → (e.getLsbD k = true ↔ s.ext.extint.getLsbD k = true
        ∧ (v.getLsbD k = false ∨ (s.ext.extmode.getLsbD k = false ∧ active k))))
    ∧ memWrite 0xE01FC144 .word v s
        = .ok () { s with sys := sys, ext := { s.ext with intwake := v.extractLsb' 0 16 &&& 0xC0FF } }
    ∧ (∃ e idx, memWrite 0xE01FC148 .word v s = .ok () { s with
          sys := sys
          ext := { s.ext with extmode := v.extractLsb' 0 4, extint := e }
          freeIdx := idx }
        ∧ ∀ k, k < 4 → v.getLsbD k = s.ext.extmode.getLsbD k → e.getLsbD k = s.ext.extint.getLsbD k)
    ∧ (∃ e idx, memWrite 0xE01FC14C .word v s = .ok () { s with
          sys := sys
          ext := { s.ext with extpolar := v.extractLsb' 0 4, extint := e }
          freeIdx := idx }
        ∧ ∀ k, k < 4 → v.getLsbD k = s.ext.extpolar.getLsbD k → e.getLsbD k = s.ext.extint.getLsbD k)
    ∧ gives 0xE01FC140 0xF (s.ext.extint.setWidth 32) ∧ gives 0xE01FC144 0xC0FF (s.ext.intwake.setWidth 32)
    ∧ gives 0xE01FC148 0xF (s.ext.extmode.setWidth 32) ∧ gives 0xE01FC14C 0xF (s.ext.extpolar.setWidth 32)
    ∧ (∀ n : Fin 11, n ≠ 10 →
      memWrite (0xE002C000 + 4 * BitVec.ofNat 32 n.val) .word v s
        = .ok () { s with sys := sys, pinConn := { s.pinConn with pinsel := s.pinConn.pinsel.set n v } }
      ∧ memRead (0xE002C000 + 4 * BitVec.ofNat 32 n.val) .word s = .ok s.pinConn.pinsel[n] { s with sys := sys })
    ∧ memWrite 0xE002C028 .word v s
        = .ok () { s with sys := sys, pinConn := { s.pinConn with pinsel := s.pinConn.pinsel.set 10 (v &&& 0x8) } }
    ∧ gives 0xE002C028 0x8 s.pinConn.pinsel[10]
    ∧ (∀ n : Fin 10,
      memWrite (0xE002C040 + 4 * BitVec.ofNat 32 n.val) .word v s
        = .ok () { s with sys := sys, pinConn := { s.pinConn with pinmode := s.pinConn.pinmode.set n v } }
      ∧ memRead (0xE002C040 + 4 * BitVec.ofNat 32 n.val) .word s = .ok s.pinConn.pinmode[n] { s with sys := sys })
    ∧ (s.sys.pconp.getLsbD 11 = false → ∀ a ∈ (0xFFE08004 : Word) :: emc,
      memWrite a .word v s = .stop .emcUnpowered ∧ memRead a .word s = .stop .emcUnpowered)
    ∧ (s.sys.pconp.getLsbD 11 = true →
      (∀ a ∈ emc, ∃ e, memWrite a .word v s = .ok () { s with emc := e }
        ∧ memRead a .word { s with emc := e } = .ok v { s with emc := e }
        ∧ ∀ b ∈ emc, b ≠ a → ∃ x, memRead b .word s = .ok x s
          ∧ memRead b .word { s with emc := e } = .ok x { s with emc := e })
      ∧ memWrite 0xFFE08004 .word v s = .ok () s
      ∧ ∃ x idx, memRead 0xFFE08004 .word s = .ok x { s with freeIdx := idx } ∧ x.extractLsb' 0 3 = 5)
    ∧ (∀ off, off < 0x4000 → off % 4 = 0 →
      (0xFFE08000 + BitVec.ofNat 32 off) ∉ (0xFFE08004 : Word) :: emc →
      memWrite (0xFFE08000 + BitVec.ofNat 32 off) .word v s = .stop .undescribedRegister
      ∧ ∃ x idx, memRead (0xFFE08000 + BitVec.ofNat 32 off) .word s = .ok x { s with freeIdx := idx })
end

