-- ==== Sys2Proof/Laws/Memory.lean ====
section
/-! SUPPORT. Laws of the byte memory: reading after writing, the canonical form, and what a wide store does. -/
namespace Sys2Proof.Machine

/-! ### One byte -/

theorem Memory.wfFrom_mono (m : Memory) {lo lo' : Nat} (h : lo ≤ lo') (hw : m.wfFrom lo' = true) :
    m.wfFrom lo = true := by
  cases m with
  | nil => rfl
  | cons c rest =>
    obtain ⟨k, b⟩ := c
    simp only [Memory.wfFrom, Bool.and_eq_true, decide_eq_true_eq] at hw ⊢
    exact ⟨⟨by omega, hw.1.2⟩, hw.2⟩

/-- Below every listed address, memory reads as unwritten. -/
theorem Memory.get_below (m : Memory) {lo a : Nat} (hw : m.wfFrom lo = true) (h : a < lo) :
    m.get a = unwrittenByte := by
  induction m generalizing lo with
  | nil => rfl
  | cons c rest ih =>
    obtain ⟨k, b⟩ := c
    simp only [Memory.wfFrom, Bool.and_eq_true, decide_eq_true_eq] at hw
    rw [Memory.get, if_neg (by omega)]
    exact ih hw.2 (by omega)

/-- A byte written is read back, in a memory of canonical form. -/
theorem Memory.get_set_same (m : Memory) (a : Nat) (v : Byte) (lo : Nat) (hw : m.wfFrom lo = true) :
    (m.set a v).get a = v := by
  induction m generalizing lo with
  | nil => by_cases hv : v = unwrittenByte <;> simp [Memory.set, Memory.get, hv]
  | cons c rest ih =>
    obtain ⟨k, b⟩ := c
    simp only [Memory.wfFrom, Bool.and_eq_true, decide_eq_true_eq] at hw
    simp only [Memory.set]
    split
    · split
      · rename_i h1 h2
        rw [h2, Memory.get, if_neg (by omega)]
        exact Memory.get_below rest hw.2 (by omega)
      · simp [Memory.get]
    · split
      · split
        · rename_i h2 h3
          rw [h3]; exact Memory.get_below rest hw.2 (by omega)
        · simp [Memory.get]
      · rw [Memory.get, if_neg (by omega)]
        exact ih _ hw.2

/-- A byte written leaves every other byte alone. -/
theorem Memory.get_set_other (m : Memory) (a a' : Nat) (v : Byte) (h : a' ≠ a) : (m.set a v).get a' = m.get a' := by
  induction m with
  | nil => by_cases hv : v = unwrittenByte <;> simp [Memory.set, Memory.get, hv, Ne.symm h]
  | cons c rest ih =>
    obtain ⟨k, b⟩ := c
    simp only [Memory.set]
    split
    · split
      · rfl
      · simp [Memory.get, Ne.symm h]
    · split
      · rename_i h2
        subst h2
        split <;> simp [Memory.get, Ne.symm h]
      · simp only [Memory.get, ih]

/-- A byte write keeps the canonical form. -/
theorem Memory.wfFrom_set (m : Memory) (a : Nat) (v : Byte) (lo : Nat) (hlo : lo ≤ a) (hw : m.wfFrom lo = true) :
    (m.set a v).wfFrom lo = true := by
  induction m generalizing lo with
  | nil => by_cases hv : v = unwrittenByte <;> simp [Memory.set, Memory.wfFrom, hv, hlo]
  | cons c rest ih =>
    obtain ⟨k, b⟩ := c
    have hw' := hw
    simp only [Memory.wfFrom, Bool.and_eq_true, decide_eq_true_eq] at hw
    simp only [Memory.set]
    split
    · split
      · exact hw'
      · rename_i h1 h2
        simp only [Memory.wfFrom, Bool.and_eq_true, decide_eq_true_eq]
        exact ⟨⟨hlo, by simpa using h2⟩, ⟨by omega, hw.1.2⟩, hw.2⟩
    · split
      · split
        · exact Memory.wfFrom_mono rest (by omega) hw.2
        · rename_i h1 h2 h3
          simp only [Memory.wfFrom, Bool.and_eq_true, decide_eq_true_eq]
          exact ⟨⟨hlo, by simpa using h3⟩, h2 ▸ hw.2⟩
      · simp only [Memory.wfFrom, Bool.and_eq_true, decide_eq_true_eq]
        exact ⟨hw.1, ih (k + 1) (by omega) hw.2⟩

theorem Memory.wf_set (m : Memory) (a : Nat) (v : Byte) (hw : m.wf = true) : (m.set a v).wf = true :=
  Memory.wfFrom_set m a v 0 (Nat.zero_le a) hw

/-! ### Several bytes -/

/-- A wide store keeps the canonical form. -/
theorem Memory.wf_store (m : Memory) (a n : Nat) (v : Word) (hw : m.wf = true) : (m.store a n v).wf = true := by
  induction n generalizing m a v with
  | zero => exact hw
  | succ k ih => exact ih _ _ _ (Memory.wf_set m a _ hw)

/-- A wide store leaves every byte outside it alone. -/
theorem Memory.get_store_other (m : Memory) (a n a' : Nat) (v : Word) (h : a' < a ∨ a + n ≤ a') :
    (m.store a n v).get a' = m.get a' := by
  induction n generalizing m a v with
  | zero => rfl
  | succ k ih =>
    rw [Memory.store, ih _ _ _ (by omega), Memory.get_set_other _ _ _ _ (by omega)]

/-- A wide store writes byte `j` of the value at the `j`-th address (R70). -/
theorem Memory.get_store_inside (m : Memory) (a n j : Nat) (v : Word) (hw : m.wf = true) (h : j < n) :
    (m.store a n v).get (a + j) = v.extractLsb' (8 * j) 8 := by
  induction n generalizing m a v j with
  | zero => omega
  | succ k ih =>
    rw [Memory.store]
    cases j with
    | zero =>
      rw [Nat.add_zero, Memory.get_store_other _ _ _ _ _ (by omega)]
      exact Memory.get_set_same m a _ 0 hw
    | succ j =>
      have := ih (m.set a (v.extractLsb' 0 8)) (a + 1) j (v >>> 8) (Memory.wf_set m a _ hw) (by omega)
      rw [show a + (j + 1) = a + 1 + j by omega, this]
      apply BitVec.eq_of_getLsbD_eq
      intro i hi
      simp only [BitVec.getLsbD_extractLsb', BitVec.getLsbD_ushiftRight, hi, decide_true, Bool.true_and]
      congr 1; omega

/-- Writing the SRAM buffer to the cells keeps the canonical form (R92). -/
theorem commitPending_wf (m : Memory) (p : Option PendingStore) (hw : m.wf = true) : (commitPending m p).wf = true := by
  cases p with
  | none => exact hw
  | some p => exact Memory.wf_store m _ _ _ hw

/-- A store to a memory keeps the canonical form. -/
theorem storeMemory_wf (r : Region) (q : Nat) (w : Width) (v : Word) (st : State) (hw : st.mem.wf = true) :
    (storeMemory r q w v st).mem.wf = true := by
  simp only [storeMemory]
  split
  · exact commitPending_wf _ _ hw
  · exact Memory.wf_store _ _ _ _ hw

theorem reset_mem_wf : State.reset.mem.wf = true := rfl

/-- The byte of the SRAM buffer inside the range it covers. -/
theorem byteAt_pending_inside (p : PendingStore) (a : Nat) (h : p.addr ≤ a ∧ a < p.addr + p.width.bytes) :
    p.byteAt a = some (p.value.extractLsb' (8 * (a - p.addr)) 8) := if_pos h

theorem byteAt_pending_outside (p : PendingStore) (a : Nat) (h : a < p.addr ∨ p.addr + p.width.bytes ≤ a) :
    p.byteAt a = none := if_neg (by omega)

/-- A read outside the boot block sees what the cells would hold with the SRAM buffer written to them (R92). -/
theorem byteAt_commit (st : State) (a : Nat) (hw : st.mem.wf = true) (hb : ¬ (bootBase ≤ a ∧ a < 0x80000000)) :
    st.byteAt a = (commitPending st.mem st.sramPending).get a := by
  rw [State.byteAt, if_neg hb]
  cases hp : st.sramPending with
  | none => rfl
  | some p =>
    simp only [Option.bind_some, commitPending]
    by_cases h : p.addr ≤ a ∧ a < p.addr + p.width.bytes
    · rw [byteAt_pending_inside p a h]
      have := Memory.get_store_inside st.mem p.addr p.width.bytes (a - p.addr) p.value hw (by omega)
      rw [show p.addr + (a - p.addr) = a by omega] at this
      exact this.symm
    · rw [byteAt_pending_outside p a (by omega), Memory.get_store_other _ _ _ _ _ (by omega)]

/-- Everything a store to a memory does to what the addresses read as: the bytes stored, and every other byte as before.
A store past the SRAM must not meet the datum of the SRAM buffer (`State.pendingInSram` gives that). -/
theorem byteAt_storeMemory (r : Region) (q : Nat) (w : Width) (v : Word) (st : State) (a : Nat) (hw : st.mem.wf = true)
    (hr : r ≠ .sram → ∀ p, st.sramPending = some p → p.addr + p.width.bytes ≤ q ∨ q + w.bytes ≤ p.addr)
    (hb : ¬ (bootBase ≤ a ∧ a < 0x80000000)) :
    (storeMemory r q w v st).byteAt a
      = if q ≤ a ∧ a < q + w.bytes then v.extractLsb' (8 * (a - q)) 8 else st.byteAt a := by
  by_cases hs : r = .sram
  · rw [State.byteAt, if_neg hb]
    simp only [storeMemory, hs, if_true, Option.bind_some]
    by_cases h : q ≤ a ∧ a < q + w.bytes
    · rw [byteAt_pending_inside _ _ h, if_pos h]
    · rw [byteAt_pending_outside _ _ (by change a < q ∨ q + w.bytes ≤ a; omega), if_neg h]
      exact (byteAt_commit st a hw hb).symm
  · rw [State.byteAt, if_neg hb, State.byteAt, if_neg hb]
    simp only [storeMemory, hs, if_false]
    by_cases h : q ≤ a ∧ a < q + w.bytes
    · rw [if_pos h]
      have hg : (st.mem.store q w.bytes v).get a = v.extractLsb' (8 * (a - q)) 8 := by
        have := Memory.get_store_inside st.mem q w.bytes (a - q) v hw (by omega)
        rwa [show q + (a - q) = a by omega] at this
      cases hp : st.sramPending with
      | none => exact hg
      | some p =>
        have := hr hs p hp
        simp only [Option.bind_some]
        rw [byteAt_pending_outside p a (by omega)]
        exact hg
    · rw [if_neg h, Memory.get_store_other _ _ _ _ _ (by omega)]

end Sys2Proof.Machine
end

