-- ==== Sys2Proof/Laws/State.lean ====
section
/-! SUPPORT. One lemma per field per update of the state: what an update leaves alone, and what it writes. -/
namespace Sys2Proof.Machine

/-! ### setRegIn -/
@[simp] theorem setRegIn_cpsr (st : State) (m : Mode) (r : RegNum) (v : Word) : (st.setRegIn m r v).cpsr = st.cpsr := rfl
@[simp] theorem setRegIn_spsr (st : State) (m : Mode) (r : RegNum) (v : Word) : (st.setRegIn m r v).spsr = st.spsr := rfl
@[simp] theorem setRegIn_mem (st : State) (m : Mode) (r : RegNum) (v : Word) : (st.setRegIn m r v).mem = st.mem := rfl
@[simp] theorem setRegIn_sramPending (st : State) (m : Mode) (r : RegNum) (v : Word) : (st.setRegIn m r v).sramPending = st.sramPending := rfl
@[simp] theorem setRegIn_vic (st : State) (m : Mode) (r : RegNum) (v : Word) : (st.setRegIn m r v).vic = st.vic := rfl
@[simp] theorem setRegIn_ext (st : State) (m : Mode) (r : RegNum) (v : Word) : (st.setRegIn m r v).ext = st.ext := rfl
@[simp] theorem setRegIn_sys (st : State) (m : Mode) (r : RegNum) (v : Word) : (st.setRegIn m r v).sys = st.sys := rfl
@[simp] theorem setRegIn_pinConn (st : State) (m : Mode) (r : RegNum) (v : Word) : (st.setRegIn m r v).pinConn = st.pinConn := rfl
@[simp] theorem setRegIn_emc (st : State) (m : Mode) (r : RegNum) (v : Word) : (st.setRegIn m r v).emc = st.emc := rfl
@[simp] theorem setRegIn_power (st : State) (m : Mode) (r : RegNum) (v : Word) : (st.setRegIn m r v).power = st.power := rfl
@[simp] theorem setRegIn_env (st : State) (m : Mode) (r : RegNum) (v : Word) : (st.setRegIn m r v).env = st.env := rfl
@[simp] theorem setRegIn_userBankLdm (st : State) (m : Mode) (r : RegNum) (v : Word) : (st.setRegIn m r v).userBankLdm = st.userBankLdm := rfl
@[simp] theorem setRegIn_freeIdx (st : State) (m : Mode) (r : RegNum) (v : Word) : (st.setRegIn m r v).freeIdx = st.freeIdx := rfl

/-! ### setReg -/
@[simp] theorem setReg_cpsr (st : State) (r : RegNum) (v : Word) : (st.setReg r v).cpsr = st.cpsr := rfl
@[simp] theorem setReg_spsr (st : State) (r : RegNum) (v : Word) : (st.setReg r v).spsr = st.spsr := rfl
@[simp] theorem setReg_mem (st : State) (r : RegNum) (v : Word) : (st.setReg r v).mem = st.mem := rfl
@[simp] theorem setReg_sramPending (st : State) (r : RegNum) (v : Word) : (st.setReg r v).sramPending = st.sramPending := rfl
@[simp] theorem setReg_vic (st : State) (r : RegNum) (v : Word) : (st.setReg r v).vic = st.vic := rfl
@[simp] theorem setReg_ext (st : State) (r : RegNum) (v : Word) : (st.setReg r v).ext = st.ext := rfl
@[simp] theorem setReg_sys (st : State) (r : RegNum) (v : Word) : (st.setReg r v).sys = st.sys := rfl
@[simp] theorem setReg_pinConn (st : State) (r : RegNum) (v : Word) : (st.setReg r v).pinConn = st.pinConn := rfl
@[simp] theorem setReg_emc (st : State) (r : RegNum) (v : Word) : (st.setReg r v).emc = st.emc := rfl
@[simp] theorem setReg_power (st : State) (r : RegNum) (v : Word) : (st.setReg r v).power = st.power := rfl
@[simp] theorem setReg_env (st : State) (r : RegNum) (v : Word) : (st.setReg r v).env = st.env := rfl
@[simp] theorem setReg_userBankLdm (st : State) (r : RegNum) (v : Word) : (st.setReg r v).userBankLdm = st.userBankLdm := rfl
@[simp] theorem setReg_freeIdx (st : State) (r : RegNum) (v : Word) : (st.setReg r v).freeIdx = st.freeIdx := rfl

/-! ### setFlags -/
@[simp] theorem setFlags_regs (st : State) (f : Flags) : (st.setFlags f).regs = st.regs := rfl
@[simp] theorem setFlags_pc (st : State) (f : Flags) : (st.setFlags f).pc = st.pc := rfl
@[simp] theorem setFlags_spsr (st : State) (f : Flags) : (st.setFlags f).spsr = st.spsr := rfl
@[simp] theorem setFlags_mem (st : State) (f : Flags) : (st.setFlags f).mem = st.mem := rfl
@[simp] theorem setFlags_sramPending (st : State) (f : Flags) : (st.setFlags f).sramPending = st.sramPending := rfl
@[simp] theorem setFlags_vic (st : State) (f : Flags) : (st.setFlags f).vic = st.vic := rfl
@[simp] theorem setFlags_ext (st : State) (f : Flags) : (st.setFlags f).ext = st.ext := rfl
@[simp] theorem setFlags_sys (st : State) (f : Flags) : (st.setFlags f).sys = st.sys := rfl
@[simp] theorem setFlags_pinConn (st : State) (f : Flags) : (st.setFlags f).pinConn = st.pinConn := rfl
@[simp] theorem setFlags_emc (st : State) (f : Flags) : (st.setFlags f).emc = st.emc := rfl
@[simp] theorem setFlags_power (st : State) (f : Flags) : (st.setFlags f).power = st.power := rfl
@[simp] theorem setFlags_env (st : State) (f : Flags) : (st.setFlags f).env = st.env := rfl
@[simp] theorem setFlags_userBankLdm (st : State) (f : Flags) : (st.setFlags f).userBankLdm = st.userBankLdm := rfl
@[simp] theorem setFlags_freeIdx (st : State) (f : Flags) : (st.setFlags f).freeIdx = st.freeIdx := rfl

/-! ### drawn -/
@[simp] theorem drawn_regs (st : State) : (st.drawn).regs = st.regs := rfl
@[simp] theorem drawn_pc (st : State) : (st.drawn).pc = st.pc := rfl
@[simp] theorem drawn_cpsr (st : State) : (st.drawn).cpsr = st.cpsr := rfl
@[simp] theorem drawn_spsr (st : State) : (st.drawn).spsr = st.spsr := rfl
@[simp] theorem drawn_mem (st : State) : (st.drawn).mem = st.mem := rfl
@[simp] theorem drawn_sramPending (st : State) : (st.drawn).sramPending = st.sramPending := rfl
@[simp] theorem drawn_vic (st : State) : (st.drawn).vic = st.vic := rfl
@[simp] theorem drawn_ext (st : State) : (st.drawn).ext = st.ext := rfl
@[simp] theorem drawn_sys (st : State) : (st.drawn).sys = st.sys := rfl
@[simp] theorem drawn_pinConn (st : State) : (st.drawn).pinConn = st.pinConn := rfl
@[simp] theorem drawn_emc (st : State) : (st.drawn).emc = st.emc := rfl
@[simp] theorem drawn_power (st : State) : (st.drawn).power = st.power := rfl
@[simp] theorem drawn_env (st : State) : (st.drawn).env = st.env := rfl
@[simp] theorem drawn_userBankLdm (st : State) : (st.drawn).userBankLdm = st.userBankLdm := rfl

/-! ### takeException -/
@[simp] theorem takeException_mem (st : State) (e : Exception) : (takeException e st).mem = st.mem := rfl
@[simp] theorem takeException_sramPending (st : State) (e : Exception) : (takeException e st).sramPending = st.sramPending := rfl
@[simp] theorem takeException_vic (st : State) (e : Exception) : (takeException e st).vic = st.vic := rfl
@[simp] theorem takeException_ext (st : State) (e : Exception) : (takeException e st).ext = st.ext := rfl
@[simp] theorem takeException_sys (st : State) (e : Exception) : (takeException e st).sys = st.sys := rfl
@[simp] theorem takeException_pinConn (st : State) (e : Exception) : (takeException e st).pinConn = st.pinConn := rfl
@[simp] theorem takeException_emc (st : State) (e : Exception) : (takeException e st).emc = st.emc := rfl
@[simp] theorem takeException_power (st : State) (e : Exception) : (takeException e st).power = st.power := rfl
@[simp] theorem takeException_env (st : State) (e : Exception) : (takeException e st).env = st.env := rfl
@[simp] theorem takeException_freeIdx (st : State) (e : Exception) : (takeException e st).freeIdx = st.freeIdx := rfl

/-! ### linkReturn -/
@[simp] theorem linkReturn_cpsr (st : State) : (linkReturn st).cpsr = st.cpsr := rfl
@[simp] theorem linkReturn_spsr (st : State) : (linkReturn st).spsr = st.spsr := rfl
@[simp] theorem linkReturn_mem (st : State) : (linkReturn st).mem = st.mem := rfl
@[simp] theorem linkReturn_sramPending (st : State) : (linkReturn st).sramPending = st.sramPending := rfl
@[simp] theorem linkReturn_vic (st : State) : (linkReturn st).vic = st.vic := rfl
@[simp] theorem linkReturn_ext (st : State) : (linkReturn st).ext = st.ext := rfl
@[simp] theorem linkReturn_sys (st : State) : (linkReturn st).sys = st.sys := rfl
@[simp] theorem linkReturn_pinConn (st : State) : (linkReturn st).pinConn = st.pinConn := rfl
@[simp] theorem linkReturn_emc (st : State) : (linkReturn st).emc = st.emc := rfl
@[simp] theorem linkReturn_power (st : State) : (linkReturn st).power = st.power := rfl
@[simp] theorem linkReturn_env (st : State) : (linkReturn st).env = st.env := rfl
@[simp] theorem linkReturn_userBankLdm (st : State) : (linkReturn st).userBankLdm = st.userBankLdm := rfl
@[simp] theorem linkReturn_freeIdx (st : State) : (linkReturn st).freeIdx = st.freeIdx := rfl

/-! ### disarmFeed -/
@[simp] theorem disarmFeed_regs (st : State) (p : Nat) : (disarmFeed p st).regs = st.regs := rfl
@[simp] theorem disarmFeed_pc (st : State) (p : Nat) : (disarmFeed p st).pc = st.pc := rfl
@[simp] theorem disarmFeed_cpsr (st : State) (p : Nat) : (disarmFeed p st).cpsr = st.cpsr := rfl
@[simp] theorem disarmFeed_spsr (st : State) (p : Nat) : (disarmFeed p st).spsr = st.spsr := rfl
@[simp] theorem disarmFeed_mem (st : State) (p : Nat) : (disarmFeed p st).mem = st.mem := rfl
@[simp] theorem disarmFeed_sramPending (st : State) (p : Nat) : (disarmFeed p st).sramPending = st.sramPending := rfl
@[simp] theorem disarmFeed_vic (st : State) (p : Nat) : (disarmFeed p st).vic = st.vic := rfl
@[simp] theorem disarmFeed_ext (st : State) (p : Nat) : (disarmFeed p st).ext = st.ext := rfl
@[simp] theorem disarmFeed_pinConn (st : State) (p : Nat) : (disarmFeed p st).pinConn = st.pinConn := rfl
@[simp] theorem disarmFeed_emc (st : State) (p : Nat) : (disarmFeed p st).emc = st.emc := rfl
@[simp] theorem disarmFeed_power (st : State) (p : Nat) : (disarmFeed p st).power = st.power := rfl
@[simp] theorem disarmFeed_env (st : State) (p : Nat) : (disarmFeed p st).env = st.env := rfl
@[simp] theorem disarmFeed_userBankLdm (st : State) (p : Nat) : (disarmFeed p st).userBankLdm = st.userBankLdm := rfl
@[simp] theorem disarmFeed_freeIdx (st : State) (p : Nat) : (disarmFeed p st).freeIdx = st.freeIdx := rfl

/-! ### storeMemory -/
@[simp] theorem storeMemory_regs (st : State) (r : Region) (q : Nat) (w : Width) (v : Word) : (storeMemory r q w v st).regs = st.regs := rfl
@[simp] theorem storeMemory_pc (st : State) (r : Region) (q : Nat) (w : Width) (v : Word) : (storeMemory r q w v st).pc = st.pc := rfl
@[simp] theorem storeMemory_cpsr (st : State) (r : Region) (q : Nat) (w : Width) (v : Word) : (storeMemory r q w v st).cpsr = st.cpsr := rfl
@[simp] theorem storeMemory_spsr (st : State) (r : Region) (q : Nat) (w : Width) (v : Word) : (storeMemory r q w v st).spsr = st.spsr := rfl
@[simp] theorem storeMemory_vic (st : State) (r : Region) (q : Nat) (w : Width) (v : Word) : (storeMemory r q w v st).vic = st.vic := rfl
@[simp] theorem storeMemory_ext (st : State) (r : Region) (q : Nat) (w : Width) (v : Word) : (storeMemory r q w v st).ext = st.ext := rfl
@[simp] theorem storeMemory_sys (st : State) (r : Region) (q : Nat) (w : Width) (v : Word) : (storeMemory r q w v st).sys = st.sys := rfl
@[simp] theorem storeMemory_pinConn (st : State) (r : Region) (q : Nat) (w : Width) (v : Word) : (storeMemory r q w v st).pinConn = st.pinConn := rfl
@[simp] theorem storeMemory_emc (st : State) (r : Region) (q : Nat) (w : Width) (v : Word) : (storeMemory r q w v st).emc = st.emc := rfl
@[simp] theorem storeMemory_power (st : State) (r : Region) (q : Nat) (w : Width) (v : Word) : (storeMemory r q w v st).power = st.power := rfl
@[simp] theorem storeMemory_env (st : State) (r : Region) (q : Nat) (w : Width) (v : Word) : (storeMemory r q w v st).env = st.env := rfl
@[simp] theorem storeMemory_userBankLdm (st : State) (r : Region) (q : Nat) (w : Width) (v : Word) : (storeMemory r q w v st).userBankLdm = st.userBankLdm := rfl
@[simp] theorem storeMemory_freeIdx (st : State) (r : Region) (q : Nat) (w : Width) (v : Word) : (storeMemory r q w v st).freeIdx = st.freeIdx := rfl

/-! ### settle -/
@[simp] theorem settle_regs (st : State) : (settle st).regs = st.regs := rfl
@[simp] theorem settle_pc (st : State) : (settle st).pc = st.pc := rfl
@[simp] theorem settle_cpsr (st : State) : (settle st).cpsr = st.cpsr := rfl
@[simp] theorem settle_spsr (st : State) : (settle st).spsr = st.spsr := rfl
@[simp] theorem settle_mem (st : State) : (settle st).mem = st.mem := rfl
@[simp] theorem settle_sramPending (st : State) : (settle st).sramPending = st.sramPending := rfl
@[simp] theorem settle_vic (st : State) : (settle st).vic = st.vic := rfl
@[simp] theorem settle_pinConn (st : State) : (settle st).pinConn = st.pinConn := rfl
@[simp] theorem settle_emc (st : State) : (settle st).emc = st.emc := rfl
@[simp] theorem settle_power (st : State) : (settle st).power = st.power := rfl
@[simp] theorem settle_env (st : State) : (settle st).env = st.env := rfl
@[simp] theorem settle_userBankLdm (st : State) : (settle st).userBankLdm = st.userBankLdm := rfl
@[simp] theorem settle_freeIdx (st : State) : (settle st).freeIdx = st.freeIdx := rfl

/-! ### sampleInputs -/
@[simp] theorem sampleInputs_regs (st : State) : (sampleInputs st).regs = st.regs := rfl
@[simp] theorem sampleInputs_pc (st : State) : (sampleInputs st).pc = st.pc := rfl
@[simp] theorem sampleInputs_cpsr (st : State) : (sampleInputs st).cpsr = st.cpsr := rfl
@[simp] theorem sampleInputs_spsr (st : State) : (sampleInputs st).spsr = st.spsr := rfl
@[simp] theorem sampleInputs_mem (st : State) : (sampleInputs st).mem = st.mem := rfl
@[simp] theorem sampleInputs_sramPending (st : State) : (sampleInputs st).sramPending = st.sramPending := rfl
@[simp] theorem sampleInputs_vic (st : State) : (sampleInputs st).vic = st.vic := rfl
@[simp] theorem sampleInputs_ext (st : State) : (sampleInputs st).ext = st.ext := rfl
@[simp] theorem sampleInputs_sys (st : State) : (sampleInputs st).sys = st.sys := rfl
@[simp] theorem sampleInputs_pinConn (st : State) : (sampleInputs st).pinConn = st.pinConn := rfl
@[simp] theorem sampleInputs_emc (st : State) : (sampleInputs st).emc = st.emc := rfl
@[simp] theorem sampleInputs_power (st : State) : (sampleInputs st).power = st.power := rfl
@[simp] theorem sampleInputs_userBankLdm (st : State) : (sampleInputs st).userBankLdm = st.userBankLdm := rfl
@[simp] theorem sampleInputs_freeIdx (st : State) : (sampleInputs st).freeIdx = st.freeIdx := rfl

/-! ### What the updates write -/
@[simp] theorem drawn_freeIdx (st : State) : st.drawn.freeIdx = st.freeIdx + 1 := rfl
@[simp] theorem setFlags_cpsr (st : State) (f : Flags) : (st.setFlags f).cpsr = withFlags st.cpsr f := rfl
@[simp] theorem takeException_pc (st : State) (e : Exception) : (takeException e st).pc = e.vector := rfl
@[simp] theorem takeException_cpsr (st : State) (e : Exception) :
    (takeException e st).cpsr = entryCpsr e st.cpsr := rfl
@[simp] theorem takeException_spsr (st : State) (e : Exception) :
    (takeException e st).spsr = st.spsr.set e.mode st.cpsr := rfl
@[simp] theorem takeException_userBankLdm (st : State) (e : Exception) : (takeException e st).userBankLdm = false := rfl

theorem setRegIn_pc (st : State) (m : Mode) (r : RegNum) (v : Word) (h : r ≠ 15) : (st.setRegIn m r v).pc = st.pc :=
  if_neg h

theorem setRegIn_regs (st : State) (m : Mode) (r : RegNum) (v : Word) (h : r ≠ 15) :
    (st.setRegIn m r v).regs = st.regs.set (physIndex m r) v := if_neg h

theorem setReg_pc (st : State) (r : RegNum) (v : Word) (h : r ≠ 15) : (st.setReg r v).pc = st.pc :=
  setRegIn_pc st st.mode r v h

@[simp] theorem linkReturn_pc (st : State) : (linkReturn st).pc = st.pc := setReg_pc st 14 _ (by decide)

/-- The mode depends on the CPSR alone. -/
theorem mode_of_cpsr {s t : State} (h : s.cpsr = t.cpsr) : s.mode = t.mode := by simp [State.mode, h]

/-- The flags depend on the CPSR alone. -/
theorem flags_of_cpsr {s t : State} (h : s.cpsr = t.cpsr) : s.flags = t.flags := by simp [State.flags, h]

@[simp] theorem setReg_mode (st : State) (r : RegNum) (v : Word) : (st.setReg r v).mode = st.mode := rfl
@[simp] theorem setReg_flags (st : State) (r : RegNum) (v : Word) : (st.setReg r v).flags = st.flags := rfl
@[simp] theorem drawn_mode (st : State) : st.drawn.mode = st.mode := rfl

/-! ### Registers -/

theorem regIn_of_ne (st : State) (m : Mode) (r : RegNum) (h : r ≠ 15) : st.regIn m r = st.regs[physIndex m r] :=
  if_neg h

/-- Two registers other than the PC share a place only if they are the same register of the same mode's bank (R24). -/
theorem physIndex_injective (m : Mode) (r r' : RegNum) (hr : r ≠ 15) (hr' : r' ≠ 15)
    (h : physIndex m r = physIndex m r') : r = r' := by
  cases m <;> revert r r' <;> decide

theorem regIn_setRegIn_same (st : State) (m : Mode) (r : RegNum) (v : Word) : (st.setRegIn m r v).regIn m r = v := by
  by_cases h : r = 15
  · subst h; rfl
  · rw [regIn_of_ne _ _ _ h, setRegIn_regs _ _ _ _ h]; exact Vector.getElem_set_self _

theorem regIn_setRegIn_other (st : State) (m : Mode) (r r' : RegNum) (v : Word) (h : r' ≠ r) :
    (st.setRegIn m r v).regIn m r' = st.regIn m r' := by
  by_cases h15' : r' = 15
  · subst h15'; exact setRegIn_pc st m r v (Ne.symm h)
  · rw [regIn_of_ne _ _ _ h15', regIn_of_ne _ _ _ h15']
    by_cases h15 : r = 15
    · subst h15; rfl
    · rw [setRegIn_regs _ _ _ _ h15]
      refine Vector.getElem_set_ne _ _ fun e => h (physIndex_injective m r r' h15 h15' (Fin.ext e)).symm

theorem reg_setReg_same (st : State) (r : RegNum) (v : Word) : (st.setReg r v).reg r = v :=
  regIn_setRegIn_same st st.mode r v

theorem reg_setReg_other (st : State) (r r' : RegNum) (v : Word) (h : r' ≠ r) :
    (st.setReg r v).reg r' = st.reg r' := regIn_setRegIn_other st st.mode r r' v h

end Sys2Proof.Machine
end

