-- ==== Sys2Proof/Laws/Ops.lean ====
section
/-! SUPPORT. What each shared operation can do, said once: the outcomes of the PC operations, of the condition test, of a
memory access, and the facts about regions and the remap that they rest on. -/
namespace Sys2Proof.Machine

/-! ### Program counter, condition, return -/

theorem advance_next {st t : State} : advance st = .next t ↔ st.pc ≠ 0xFFFFFFFC ∧ t = { st with pc := st.pc + 4 } := by
  unfold advance
  by_cases h : st.pc = 0xFFFFFFFC
  · rw [if_pos h]; exact ⟨fun e => (by cases e), fun e => absurd h e.1⟩
  · rw [if_neg h]
    exact ⟨fun e => ⟨h, (Host.Outcome.next.inj e).symm⟩, fun e => by rw [e.2]⟩

theorem advance_of_ne {st : State} (h : st.pc ≠ 0xFFFFFFFC) : advance st = .next { st with pc := st.pc + 4 } := if_neg h

theorem branchTo_next {v : Word} {st t : State} :
    branchTo v st = .next t ↔ v.extractLsb' 0 2 = 0 ∧ t = { st with pc := v } := by
  unfold branchTo
  by_cases h : v.extractLsb' 0 2 = 0
  · rw [if_pos h]
    exact ⟨fun e => ⟨h, (Host.Outcome.next.inj e).symm⟩, fun e => by rw [e.2]⟩
  · rw [if_neg h]; exact ⟨fun e => (by cases e), fun e => absurd e.1 h⟩

theorem branchExchange_next {v : Word} {st t : State} (h : branchExchange v st = .next t) :
    (v.getLsbD 0 = true ∧ t = { st with cpsr := withThumb st.cpsr true, pc := v &&& 0xFFFFFFFE })
      ∨ (v.getLsbD 0 = false ∧ v.getLsbD 1 = false ∧ t = { st with cpsr := withThumb st.cpsr false, pc := v }) := by
  unfold branchExchange at h
  split at h
  · rename_i h0; exact .inl ⟨h0, (Host.Outcome.next.inj h).symm⟩
  · split at h
    · cases h
    · rename_i h0 h1
      exact .inr ⟨by simpa using h0, by simpa using h1, (Host.Outcome.next.inj h).symm⟩

/-- A condition that passes on a well-formed instruction: the meaning itself. -/
theorem conditional_run {c : Cond} {i : Instr} {st : State} {act : State → Result} (hc : st.passes c = true)
    (hi : i.illFormed = none) : conditional c i st act = act st := by
  rw [conditional, if_pos hc, operandFault, hi]

theorem conditional_failed {c : Cond} {i : Instr} {st : State} {act : State → Result} (hc : st.passes c = false) :
    conditional c i st act = advance st := by
  rw [conditional, if_neg (by simp [hc])]

/-- The two ways a conditional meaning gives a next state. -/
theorem conditional_next {c : Cond} {i : Instr} {st t : State} {act : State → Result}
    (h : conditional c i st act = .next t) :
    (st.passes c = true ∧ i.illFormed = none ∧ act st = .next t) ∨ (st.passes c = false ∧ advance st = .next t) := by
  unfold conditional at h
  split at h
  · rename_i hc
    split at h
    · cases h
    · rename_i hi; exact .inl ⟨hc, hi, h⟩
  · rename_i hc; exact .inr ⟨by simpa using hc, h⟩

/-- The two ways a return goes on: to the target, or, where that is odd and the restored state Thumb, to a free even PC. -/
theorem exceptionReturn_next {v : Word} {st t : State} (h : exceptionReturn v st = .next t) :
    ∃ psr, st.currentSpsr = some psr ∧ (modeOf psr).isSome = true ∧ alignedFor psr t.pc = true
      ∧ ((alignedFor psr v = true ∧ t = { st with cpsr := psr, pc := v })
        ∨ (psr.getLsbD 5 = true ∧ v.getLsbD 0 = true
          ∧ t = { st.drawn with cpsr := psr, pc := st.free &&& 0xFFFFFFFE })) := by
  unfold exceptionReturn at h
  split at h
  · cases h
  · rename_i psr hp
    split at h
    · cases h
    · rename_i m hm
      split at h
      · rename_i ha
        obtain rfl := Host.Outcome.next.inj h
        exact ⟨psr, hp, by simp [hm], ha, .inl ⟨ha, rfl⟩⟩
      · rename_i ha
        split at h
        · rename_i ht
          obtain rfl := Host.Outcome.next.inj h
          refine ⟨psr, hp, by simp [hm], ?_, .inr ⟨ht, ?_, rfl⟩⟩
          · simp [alignedFor, ht]
          · simpa [alignedFor, ht] using ha
        · cases h

/-! ### Regions and the remap -/

/-- What stands at an address: the map, case by case, the reserved holes last. -/
theorem regionOf_cases (a : Nat) :
    (a < 0x80000 ∧ regionOf a = .flash)
    ∨ ((0x3FFFC000 ≤ a ∧ a < 0x40000000) ∧ regionOf a = .fastGpio)
    ∨ ((0x40000000 ≤ a ∧ a < 0x40010000) ∧ regionOf a = .sram)
    ∨ (((0x7FD00000 ≤ a ∧ a < 0x7FD04000) ∨ (0x7FE00000 ≤ a ∧ a < 0x7FE04000)) ∧ regionOf a = .otherRam)
    ∨ ((bootBase ≤ a ∧ a < 0x80000000) ∧ regionOf a = .boot)
    ∨ ((0xE0000000 ≤ a ∧ a < 0xE0200000) ∧ regionOf a = .apb ((a - 0xE0000000) / 0x4000))
    ∨ ((0xFFE00000 ≤ a ∧ a < 0xFFE14000) ∧ regionOf a = .ahb ((a - 0xFFE00000) / 0x4000))
    ∨ ((0xFFFFC000 ≤ a ∧ a < 0xFFFFF000) ∧ regionOf a = .ahb 127)
    ∨ ((0xFFFFF000 ≤ a ∧ a < 0x100000000) ∧ regionOf a = .vic)
    ∨ (¬ a < 0x80000 ∧ ¬ (0x40000000 ≤ a ∧ a < 0x40010000) ∧ ¬ (0x7FD00000 ≤ a ∧ a < 0x7FD04000)
        ∧ ¬ (0x7FE00000 ≤ a ∧ a < 0x7FE04000) ∧ ¬ (bootBase ≤ a ∧ a < 0x80000000) ∧ regionOf a = .reserved) := by
  have hb : bootBase = 0x7FFFE000 := rfl
  by_cases h1 : a < 0x80000
  · exact .inl ⟨h1, by rw [regionOf, flashSize, if_pos h1]⟩
  by_cases h2 : 0x3FFFC000 ≤ a ∧ a < 0x40000000
  · exact .inr (.inl ⟨h2, by rw [regionOf, flashSize, if_neg h1, if_pos h2]⟩)
  by_cases h3 : 0x40000000 ≤ a ∧ a < 0x40010000
  · exact .inr (.inr (.inl ⟨h3, by rw [regionOf, flashSize, if_neg h1, if_neg h2, if_pos h3]⟩))
  by_cases h4 : 0x7FD00000 ≤ a ∧ a < 0x7FD04000
  · exact .inr (.inr (.inr (.inl ⟨.inl h4, by
      rw [regionOf, flashSize, if_neg h1, if_neg h2, if_neg h3, if_pos h4]⟩)))
  by_cases h5 : 0x7FE00000 ≤ a ∧ a < 0x7FE04000
  · exact .inr (.inr (.inr (.inl ⟨.inr h5, by
      rw [regionOf, flashSize, if_neg h1, if_neg h2, if_neg h3, if_neg h4, if_pos h5]⟩)))
  by_cases h6 : bootBase ≤ a ∧ a < 0x80000000
  · exact .inr (.inr (.inr (.inr (.inl ⟨h6, by
      rw [regionOf, flashSize, if_neg h1, if_neg h2, if_neg h3, if_neg h4, if_neg h5, if_pos h6]⟩))))
  have hrest : regionOf a
      = if 0xE0000000 ≤ a ∧ a < 0xE0200000 then
          if apbPopulated ((a - 0xE0000000) / 0x4000) then .apb ((a - 0xE0000000) / 0x4000) else .reserved
        else if 0xFFE00000 ≤ a ∧ a < 0xFFE14000 then .ahb ((a - 0xFFE00000) / 0x4000)
        else if 0xFFFFC000 ≤ a ∧ a < 0xFFFFF000 then .ahb 127
        else if 0xFFFFF000 ≤ a ∧ a < 0x100000000 then .vic else .reserved := by
    rw [regionOf, flashSize, if_neg h1, if_neg h2, if_neg h3, if_neg h4, if_neg h5, if_neg h6]
    unfold extStaticBankPresent extDynamicBankPresent
    by_cases h7 : 0x80000000 ≤ a ∧ a < 0x84000000
    · rw [if_pos h7, if_neg (by decide), if_neg (by omega), if_neg (by omega), if_neg (by omega), if_neg (by omega)]
    rw [if_neg h7]
    by_cases h8 : 0xA0000000 ≤ a ∧ a < 0xE0000000
    · rw [if_pos h8, if_neg (by decide), if_neg (by omega), if_neg (by omega), if_neg (by omega), if_neg (by omega)]
    rw [if_neg h8]
  by_cases h9 : 0xE0000000 ≤ a ∧ a < 0xE0200000
  · rw [if_pos h9] at hrest
    by_cases hp : apbPopulated ((a - 0xE0000000) / 0x4000) = true
    · rw [if_pos hp] at hrest
      exact .inr (.inr (.inr (.inr (.inr (.inl ⟨h9, hrest⟩)))))
    · rw [if_neg hp] at hrest
      exact .inr (.inr (.inr (.inr (.inr (.inr (.inr (.inr (.inr ⟨h1, h3, h4, h5, h6, hrest⟩))))))))
  rw [if_neg h9] at hrest
  by_cases h10 : 0xFFE00000 ≤ a ∧ a < 0xFFE14000
  · rw [if_pos h10] at hrest
    exact .inr (.inr (.inr (.inr (.inr (.inr (.inl ⟨h10, hrest⟩))))))
  rw [if_neg h10] at hrest
  by_cases h11 : 0xFFFFC000 ≤ a ∧ a < 0xFFFFF000
  · rw [if_pos h11] at hrest
    exact .inr (.inr (.inr (.inr (.inr (.inr (.inr (.inl ⟨h11, hrest⟩)))))))
  rw [if_neg h11] at hrest
  by_cases h12 : 0xFFFFF000 ≤ a ∧ a < 0x100000000
  · rw [if_pos h12] at hrest
    exact .inr (.inr (.inr (.inr (.inr (.inr (.inr (.inr (.inl ⟨h12, hrest⟩))))))))
  rw [if_neg h12] at hrest
  exact .inr (.inr (.inr (.inr (.inr (.inr (.inr (.inr (.inr ⟨h1, h3, h4, h5, h6, hrest⟩))))))))

theorem regionOf_sram {a : Nat} : regionOf a = .sram ↔ 0x40000000 ≤ a ∧ a < 0x40010000 := by
  have hb : bootBase = 0x7FFFE000 := rfl
  rcases regionOf_cases a with h | h | h | h | h | h | h | h | h | h
  case inr.inr.inl => exact ⟨fun _ => h.1, fun _ => h.2⟩
  case inr.inr.inr.inr.inr.inr.inr.inr.inr =>
    obtain ⟨_, h3, _, _, _, hr⟩ := h
    rw [hr]; exact ⟨fun e => (by cases e), fun e => absurd e h3⟩
  all_goals
    rw [h.2]
    exact ⟨fun e => (by cases e), fun e => by omega⟩

theorem regionOf_otherRam {a : Nat} :
    regionOf a = .otherRam ↔ (0x7FD00000 ≤ a ∧ a < 0x7FD04000) ∨ (0x7FE00000 ≤ a ∧ a < 0x7FE04000) := by
  have hb : bootBase = 0x7FFFE000 := rfl
  rcases regionOf_cases a with h | h | h | h | h | h | h | h | h | h
  case inr.inr.inr.inl => exact ⟨fun _ => h.1, fun _ => h.2⟩
  case inr.inr.inr.inr.inr.inr.inr.inr.inr =>
    obtain ⟨_, _, h4, h5, _, hr⟩ := h
    rw [hr]; exact ⟨fun e => (by cases e), fun e => absurd e (by omega)⟩
  all_goals
    rw [h.2]
    exact ⟨fun e => (by cases e), fun e => by omega⟩

theorem regionOf_flash {a : Nat} : regionOf a = .flash ↔ a < 0x80000 := by
  have hb : bootBase = 0x7FFFE000 := rfl
  rcases regionOf_cases a with h | h | h | h | h | h | h | h | h | h
  case inl => exact ⟨fun _ => h.1, fun _ => h.2⟩
  case inr.inr.inr.inr.inr.inr.inr.inr.inr =>
    rw [h.2.2.2.2.2]; exact ⟨fun e => (by cases e), fun e => absurd e h.1⟩
  all_goals
    rw [h.2]
    exact ⟨fun e => (by cases e), fun e => by omega⟩

theorem regionOf_boot {a : Nat} : regionOf a = .boot ↔ bootBase ≤ a ∧ a < 0x80000000 := by
  have hb : bootBase = 0x7FFFE000 := rfl
  rcases regionOf_cases a with h | h | h | h | h | h | h | h | h | h
  case inr.inr.inr.inr.inl => exact ⟨fun _ => h.1, fun _ => h.2⟩
  case inr.inr.inr.inr.inr.inr.inr.inr.inr =>
    rw [h.2.2.2.2.2]; exact ⟨fun e => (by cases e), fun e => absurd e h.2.2.2.2.1⟩
  all_goals
    rw [h.2]
    exact ⟨fun e => (by cases e), fun e => by omega⟩

/-- No external bank is fitted. -/
theorem regionOf_ne_external (a : Nat) : regionOf a ≠ .external := by
  rcases regionOf_cases a with h | h | h | h | h | h | h | h | h | h
  case inr.inr.inr.inr.inr.inr.inr.inr.inr => rw [h.2.2.2.2.2]; decide
  all_goals
    rw [h.2]
    exact fun e => (by cases e)

theorem externalUnpowered_false (a : Nat) (st : State) : externalUnpowered (regionOf a) st = false := by
  have := regionOf_ne_external a
  simp [externalUnpowered, this]

/-- A memory of the map is Flash, a RAM or the boot block. -/
theorem memory_kind {a : Nat} (h : (regionOf a).kind = .memory) :
    regionOf a = .flash ∨ regionOf a = .sram ∨ regionOf a = .otherRam ∨ regionOf a = .boot := by
  have he := regionOf_ne_external a
  generalize hr : regionOf a = r at h he
  cases r <;> first | (simp; done) | exact absurd rfl he | exact absurd h (by decide) | exact absurd h (by simp [Region.kind])

theorem ram_kind {a : Nat} (h : regionOf a = .sram ∨ regionOf a = .otherRam) : (regionOf a).kind = .memory := by
  rcases h with h | h <;> rw [h] <;> rfl

/-- Where a remapped address lies: itself, or for the first 64 addresses the boot block or the SRAM (R88). -/
theorem remap_some {map : BitVec 2} {a : Word} {p : Nat} (h : remap map a = some p) :
    p = a.toNat ∨ (a.toNat < 0x40 ∧ (p = bootBase + a.toNat ∨ p = 0x40000000 + a.toNat)) := by
  unfold remap at h
  split at h
  · rename_i ha
    split at h <;> simp only [Option.some.injEq, reduceCtorEq] at h <;> omega
  · simp only [Option.some.injEq] at h; omega

theorem remap_high (map : BitVec 2) (a : Word) (h : 0x40 ≤ a.toNat) : remap map a = some a.toNat := by
  unfold remap; rw [if_neg (by omega)]

theorem remap_mod4 {map : BitVec 2} {a : Word} {p : Nat} (h : remap map a = some p) : p % 4 = a.toNat % 4 := by
  have hb : bootBase = 0x7FFFE000 := rfl
  rcases remap_some h with h | ⟨_, h | h⟩ <;> omega

theorem remap_lt {map : BitVec 2} {a : Word} {p : Nat} (h : remap map a = some p) : p < 2 ^ 32 := by
  have := a.isLt
  have hb : bootBase = 0x7FFFE000 := rfl
  rcases remap_some h with h | ⟨_, h | h⟩ <;> omega

theorem alignAddress_of_dvd {w : Width} {p : Nat} (h : p % w.bytes = 0) : alignAddress w p = some p := by
  cases w <;> simp only [Width.bytes] at h <;> simp [alignAddress, h]

theorem alignAddress_word (p : Nat) : alignAddress .word p = some (p - p % 4) := by
  by_cases h : p % 4 = 0 <;> simp [alignAddress, h, misalignedPolicy]

/-- The address used is the one asked for, or for a word access the aligned one below it. -/
theorem alignAddress_some {w : Width} {p q : Nat} (h : alignAddress w p = some q) :
    q = p - p % w.bytes ∧ q % w.bytes = 0 := by
  cases w
  · simp only [alignAddress, Option.some.injEq] at h; simp only [Width.bytes]; omega
  · simp only [alignAddress] at h; split at h <;> simp only [Option.some.injEq, reduceCtorEq] at h
    simp only [Width.bytes]; omega
  · rw [alignAddress_word] at h; simp only [Option.some.injEq] at h; simp only [Width.bytes]; omega
  · simp only [alignAddress] at h; split at h <;> simp only [Option.some.injEq, reduceCtorEq] at h
    simp only [Width.bytes]; omega

/-! ### Little-endian values -/

theorem bytesAt_one (st : State) (q : Nat) : st.bytesAt q 1 = (st.byteAt q).setWidth 32 := by
  simp [State.bytesAt]

theorem bytesAt_two (st : State) (q : Nat) :
    st.bytesAt q 2 = (st.byteAt (q + 1) ++ st.byteAt q : BitVec 16).setWidth 32 := by
  simp only [State.bytesAt]
  apply BitVec.eq_of_getLsbD_eq
  intro i hi
  simp only [BitVec.getLsbD_or, BitVec.getLsbD_shiftLeft, BitVec.getLsbD_setWidth, BitVec.getLsbD_append]
  by_cases h : i < 8
  · simp [h, hi]
  · have e : i - 8 < 32 := by omega
    simp [h, hi, e, BitVec.getLsbD_of_ge (st.byteAt q) i (by omega)]

theorem bytesAt_four (st : State) (q : Nat) :
    st.bytesAt q 4 = st.byteAt (q + 3) ++ st.byteAt (q + 2) ++ st.byteAt (q + 1) ++ st.byteAt q := by
  simp only [State.bytesAt]
  generalize st.byteAt q = a
  generalize st.byteAt (q + 1) = b
  rw [show q + 1 + 1 = q + 2 from rfl, show q + 2 + 1 = q + 3 from rfl]
  generalize st.byteAt (q + 2) = c
  generalize st.byteAt (q + 3) = d
  apply BitVec.eq_of_getLsbD_eq
  intro i hi
  simp only [BitVec.getLsbD_or, BitVec.getLsbD_shiftLeft, BitVec.getLsbD_setWidth, BitVec.getLsbD_append]
  by_cases h1 : i < 8
  · simp [h1, hi]
  · by_cases h2 : i < 16
    · have e1 : i - 8 < 8 := by omega
      have e2 : i - 8 < 32 := by omega
      simp [h1, hi, e1, e2, BitVec.getLsbD_of_ge a i (by omega)]
    · by_cases h3 : i < 24
      · have e1 : ¬ i - 8 < 8 := by omega
        have e2 : i - 8 - 8 < 8 := by omega
        have e3 : i - 8 < 32 := by omega
        have e4 : i - 8 - 8 < 32 := by omega
        simp [h1, hi, e1, e2, e3, e4, BitVec.getLsbD_of_ge a i (by omega), BitVec.getLsbD_of_ge b (i - 8) (by omega)]
      · have e1 : ¬ i - 8 < 8 := by omega
        have e2 : ¬ i - 8 - 8 < 8 := by omega
        have e3 : i - 8 < 32 := by omega
        have e4 : i - 8 - 8 < 32 := by omega
        have e5 : i - 8 - 8 - 8 < 32 := by omega
        have e6 : i - 8 - 8 - 8 < 8 := by omega
        simp [h1, hi, e1, e2, e3, e4, e5, e6, BitVec.getLsbD_of_ge a i (by omega),
          BitVec.getLsbD_of_ge b (i - 8) (by omega), BitVec.getLsbD_of_ge c (i - 8 - 8) (by omega)]

/-! ### Memory accesses -/

/-- A read of a memory: the bytes, and no change of state. -/
theorem memRead_memory {a : Word} {w : Width} {st : State} {p q : Nat} (hr : remap st.sys.memmap a = some p)
    (hm : (regionOf p).kind = .memory) (hq : alignAddress w p = some q) :
    memRead a w st = .ok (st.bytesAt q w.bytes) st := by
  simp [memRead, hr, hm, hq, externalUnpowered_false]

/-- A write to a RAM outside the prefetched words: `storeMemory`. -/
theorem memWrite_ram {a v : Word} {w : Width} {st : State} {p q : Nat} (hr : remap st.sys.memmap a = some p)
    (hm : regionOf p = .sram ∨ regionOf p = .otherRam) (hq : alignAddress w p = some q)
    (hp : intoPrefetch q st = false) : memWrite a w v st = .ok () (storeMemory (regionOf p) q w v st) := by
  rcases hm with h | h <;> simp [memWrite, hr, Region.kind, externalUnpowered, hq, hp, h]

/-- An access to an unused address aborts; an armed PLL feed is disarmed if the address is an APB one (R85, R556). -/
theorem memRead_unmapped {a : Word} {w : Width} {st : State} {p : Nat} (hr : remap st.sys.memmap a = some p)
    (hm : (regionOf p).kind = .unmapped) : memRead a w st = .abort (disarmFeed p st) := by
  simp [memRead, hr, hm]

theorem memWrite_unmapped {a v : Word} {w : Width} {st : State} {p : Nat} (hr : remap st.sys.memmap a = some p)
    (hm : (regionOf p).kind = .unmapped) : memWrite a w v st = .abort (disarmFeed p st) := by
  simp [memWrite, hr, hm]

/-! ### The interrupt lines of the blocks -/

/-- A block's line arrives as the environment drives it, the brown-out line only while the detection is on (R462, R492). -/
theorem State.blockLines_getLsbD (st : State) {k : Nat} (hk : k < 32) :
    st.blockLines.getLsbD k = (st.env.lines.getLsbD k && (decide (k ≠ 20) || st.bodDetects)) := by
  unfold State.blockLines
  split <;> rename_i h
  · simp [h]
  · have mask : (0xFFEFFFFF : Word).getLsbD k = decide (k ≠ 20) := by
      revert k
      decide
    rw [BitVec.getLsbD_and, mask]
    simp [h]

/-! ### Operand-2 immediates -/

/-- An operand-2 immediate never has two bits 16 places apart. -/
theorem rotImmValue_span (op : RotImm) (k : Nat) (hk : k < 16) (h0 : (rotImmValue op).getLsbD k = true) :
    (rotImmValue op).getLsbD (k + 16) = false := by
  have hr := op.rot.isLt
  have hz : ∀ m, 8 ≤ m → op.imm8.getLsbD m = false := fun m hm => BitVec.getLsbD_of_ge _ m hm
  have hlt : ∀ m, op.imm8.getLsbD m = true → m < 8 := fun m hm => by
    by_contra hc
    rw [hz m (by omega)] at hm
    cases hm
  simp only [rotImmValue, BitVec.getLsbD_rotateRight, BitVec.getLsbD_setWidth, Bool.cond_eq_ite, decide_eq_true_eq] at h0 ⊢
  rw [Nat.mod_eq_of_lt (by omega : 2 * op.rot.toNat < 32)] at h0 ⊢
  split at h0 <;> simp only [Bool.and_eq_true] at h0
  · have := hlt _ h0.2
    split <;> (rw [hz _ (by omega)]; simp)
  · have := hlt _ h0.2.2
    split <;> (rw [hz _ (by omega)]; simp)

end Sys2Proof.Machine
end

