-- ==== Sys2Proof/Laws/Transfers.lean ====
section
/-! SUPPORT. What the memory accesses, the transfers and the boundary can do, said once each: which fields an access may
change, and the ways a transfer or a step gives a next state. -/
namespace Sys2Proof.Machine

/-! ### Which fields an access may change -/

/-- `t` is `st` but for what a read may change: VICAddress, the levels in service, the PLL feed, the count of draws. -/
def AfterRead (st t : State) : Prop :=
  ∃ addr svc armed n, t = { st with
    vic := { st.vic with address := addr, inService := svc }
    sys := { st.sys with feedArmed := armed }
    freeIdx := n }

/-- `t` is `st` but for what a store may change: memory and the platform registers. -/
def AfterWrite (st t : State) : Prop :=
  ∃ mem pend vic ext sys pins emc power n, t = { st with
    mem := mem
    sramPending := pend
    vic := vic
    ext := ext
    sys := sys
    pinConn := pins
    emc := emc
    power := power
    freeIdx := n }

theorem AfterRead.refl (st : State) : AfterRead st st := ⟨_, _, _, _, rfl⟩

theorem AfterRead.trans {r s t : State} (h : AfterRead r s) (h' : AfterRead s t) : AfterRead r t := by
  obtain ⟨a, b, c, d, rfl⟩ := h
  obtain ⟨a', b', c', d', rfl⟩ := h'
  exact ⟨a', b', c', d', rfl⟩

theorem AfterRead.afterWrite {s t : State} (h : AfterRead s t) : AfterWrite s t := by
  obtain ⟨a, b, c, d, rfl⟩ := h
  exact ⟨_, _, _, _, _, _, _, _, _, rfl⟩

theorem AfterWrite.refl (st : State) : AfterWrite st st := ⟨_, _, _, _, _, _, _, _, _, rfl⟩

theorem AfterWrite.trans {r s t : State} (h : AfterWrite r s) (h' : AfterWrite s t) : AfterWrite r t := by
  obtain ⟨a, b, c, d, e, f, g, i, j, rfl⟩ := h
  obtain ⟨a', b', c', d', e', f', g', i', j', rfl⟩ := h'
  exact ⟨a', b', c', d', e', f', g', i', j', rfl⟩

theorem disarmFeed_afterRead (p : Nat) (st : State) : AfterRead st (disarmFeed p st) := ⟨_, _, _, _, rfl⟩

theorem readBits_ok {mask v x : Word} {st t : State} (h : readBits mask v st = .ok x t) :
    AfterRead st t ∧ x &&& mask = v &&& mask := by
  unfold readBits at h
  split at h
  · rename_i hm
    injection h with hx ht
    subst hx ht
    exact ⟨.refl _, rfl⟩
  · injection h with hx ht
    subst hx ht
    refine ⟨⟨_, _, _, _, rfl⟩, ?_⟩
    apply BitVec.eq_of_getLsbD_eq
    intro i hi
    simp only [BitVec.getLsbD_and, BitVec.getLsbD_or, BitVec.getLsbD_not, hi, decide_true, Bool.true_and]
    generalize mask.getLsbD i = m
    generalize v.getLsbD i = a
    generalize st.free.getLsbD i = b
    revert m a b
    decide

theorem readBits_abort {mask v : Word} {st t : State} : readBits mask v st ≠ .abort t := by
  unfold readBits; split <;> exact fun h => (by cases h)

theorem readAny_ok {x : Word} {st t : State} (h : readAny st = .ok x t) : AfterRead st t := by
  injection h with hx ht
  subst ht
  exact ⟨_, _, _, _, rfl⟩

theorem readVicReg_ok {r : VicReg} {x : Word} {st t : State} (h : readVicReg r st = .ok x t) : AfterRead st t := by
  have keep : ∀ y, Access.ok y st = .ok x t → AfterRead st t := fun y e => by
    injection e with _ ht
    subst ht
    exact .refl _
  cases r
  case intEnClr => exact readAny_ok h
  case softIntClear => exact readAny_ok h
  case protection => exact (readBits_ok h).1
  case swPriorityMask => exact (readBits_ok h).1
  case vectPriority n => exact (readBits_ok h).1
  case address =>
    simp only [readVicReg, readVicAddress] at h
    split at h
    · injection h with _ ht
      subst ht
      exact ⟨_, _, _, _, rfl⟩
    · exact keep _ h
  all_goals exact keep _ h

theorem readVicReg_abort {r : VicReg} {st t : State} : readVicReg r st ≠ .abort t := by
  cases r
  case protection => exact readBits_abort
  case swPriorityMask => exact readBits_abort
  case vectPriority n => exact readBits_abort
  case address => simp only [readVicReg, readVicAddress]; split <;> exact fun h => (by cases h)
  all_goals exact fun h => (by cases h)

theorem readSysReg_ok {r : SysReg} {x : Word} {st t : State} (h : readSysReg r st = .ok x t) : AfterRead st t := by
  have keep : ∀ y, Access.ok y st = .ok x t → AfterRead st t := fun y e => by
    injection e with _ ht
    subst ht
    exact .refl _
  cases r
  case pllfeed => exact readAny_ok h
  case pclksel0 => exact keep _ h
  case pclksel1 => exact keep _ h
  all_goals exact (readBits_ok h).1

theorem readSysReg_abort {r : SysReg} {st t : State} : readSysReg r st ≠ .abort t := by
  cases r
  case pllfeed => exact fun h => (by cases h)
  case pclksel0 => exact fun h => (by cases h)
  case pclksel1 => exact fun h => (by cases h)
  all_goals exact readBits_abort

theorem readPins_ok {off : Nat} {x : Word} {st t : State} (h : readPins off st = .ok x t) : AfterRead st t := by
  unfold readPins at h
  split at h
  · injection h with _ ht
    subst ht
    exact .refl _
  split at h
  · exact (readBits_ok h).1
  split at h
  · injection h with _ ht
    subst ht
    exact .refl _
  · exact readAny_ok h

theorem readPins_abort {off : Nat} {st t : State} : readPins off st ≠ .abort t := by
  unfold readPins
  split
  · exact fun h => (by cases h)
  split
  · exact readBits_abort
  split <;> exact fun h => (by cases h)

theorem readEmc_ok {off : Nat} {x : Word} {st t : State} (h : readEmc off st = .ok x t) : AfterRead st t := by
  unfold readEmc at h
  split at h
  · exact readAny_ok h
  split at h
  · cases h
  split at h
  · exact (readBits_ok h).1
  · injection h with _ ht
    subst ht
    exact .refl _

theorem readEmc_abort {off : Nat} {st t : State} : readEmc off st ≠ .abort t := by
  unfold readEmc
  split
  · exact fun h => (by cases h)
  split
  · exact fun h => (by cases h)
  split
  · exact readBits_abort
  · exact fun h => (by cases h)

/-- The blocks a device read goes to. -/
theorem readDevice_cases (r : Region) (p : Nat) (st : State) :
    readDevice r p st = readAny st ∨ (∃ off, readDevice r p st = readPins off st)
    ∨ (∃ off, readDevice r p st = readSystem off st) ∨ (∃ off, readDevice r p st = readEmc off st)
    ∨ (r = .vic ∧ ∃ off, readDevice r p st = readVic off st) := by
  unfold readDevice
  split
  · split
    · exact .inr (.inl ⟨_, rfl⟩)
    split
    · exact .inr (.inr (.inl ⟨_, rfl⟩))
    · exact .inl rfl
  · split
    · exact .inr (.inr (.inr (.inl ⟨_, rfl⟩)))
    · exact .inl rfl
  · exact .inr (.inr (.inr (.inr ⟨rfl, _, rfl⟩)))
  · exact .inl rfl

theorem readSystem_ok {off : Nat} {x : Word} {st t : State} (h : readSystem off st = .ok x t) : AfterRead st t := by
  unfold readSystem at h
  split at h
  · exact readAny_ok h
  · exact readSysReg_ok h

theorem readSystem_abort {off : Nat} {st t : State} : readSystem off st ≠ .abort t := by
  unfold readSystem
  split
  · exact fun h => (by cases h)
  · exact readSysReg_abort

theorem readVic_ok {off : Nat} {x : Word} {st t : State} (h : readVic off st = .ok x t) : AfterRead st t := by
  unfold readVic at h
  split at h
  · exact readAny_ok h
  split at h
  · cases h
  · exact readVicReg_ok h

theorem vicForbids_user {r : VicReg} {st : State} (h : st.vicForbids r = true) : st.mode = .user := by
  simp only [State.vicForbids, Mode.privileged, Bool.and_eq_true] at h
  simpa using h.1

theorem readVic_abort {off : Nat} {st t : State} (h : readVic off st = .abort t) : t = st ∧ st.mode = .user := by
  unfold readVic at h
  split at h
  · cases h
  split at h
  · rename_i hf
    injection h with ht
    exact ⟨ht.symm, vicForbids_user hf⟩
  · exact absurd h readVicReg_abort

/-- A device read that answers changes only what a read may change. -/
theorem readDevice_ok {r : Region} {p : Nat} {x : Word} {st t : State} (h : readDevice r p st = .ok x t) :
    AfterRead st t := by
  rcases readDevice_cases r p st with e | ⟨o, e⟩ | ⟨o, e⟩ | ⟨o, e⟩ | ⟨_, o, e⟩ <;> rw [e] at h
  · exact readAny_ok h
  · exact readPins_ok h
  · exact readSystem_ok h
  · exact readEmc_ok h
  · exact readVic_ok h

/-- Only the VIC aborts a device read, in User mode, and then nothing changes (R478). -/
theorem readDevice_abort {r : Region} {p : Nat} {st t : State} (h : readDevice r p st = .abort t) :
    t = st ∧ r = .vic ∧ st.mode = .user := by
  rcases readDevice_cases r p st with e | ⟨o, e⟩ | ⟨o, e⟩ | ⟨o, e⟩ | ⟨hv, o, e⟩ <;> rw [e] at h
  · cases h
  · exact absurd h readPins_abort
  · exact absurd h readSystem_abort
  · exact absurd h readEmc_abort
  · exact ⟨(readVic_abort h).1, hv, (readVic_abort h).2⟩

/-- A read that answers changes only what a read may change. -/
theorem memRead_ok {a : Word} {w : Width} {x : Word} {st t : State} (h : memRead a w st = .ok x t) : AfterRead st t := by
  unfold memRead at h
  split at h
  · cases h
  split at h
  · cases h
  · split at h
    · exact (disarmFeed_afterRead _ _).trans (readDevice_ok h)
    · cases h
  · split at h
    · cases h
    split at h
    · cases h
    · injection h with _ ht
      subst ht
      exact .refl _

/-- A read that aborts changes nothing but an armed PLL feed. -/
theorem memRead_abort {a : Word} {w : Width} {st t : State} (h : memRead a w st = .abort t) :
    ∃ p, remap st.sys.memmap a = some p ∧ t = disarmFeed p st := by
  unfold memRead at h
  split at h
  · cases h
  rename_i p hp
  split at h
  · injection h with ht
    exact ⟨p, hp, ht.symm⟩
  · split at h
    · exact ⟨p, hp, (readDevice_abort h).1⟩
    · cases h
  · split at h
    · cases h
    split at h <;> cases h

/-- The blocks a device write goes to. -/
theorem writeDevice_cases (r : Region) (p : Nat) (v : Word) (st : State) :
    writeDevice r p v st = .stop .undescribedRegister ∨ (∃ off, writeDevice r p v st = writePins off v st)
    ∨ (∃ off, writeDevice r p v st = writeSystem off v st) ∨ (∃ off, writeDevice r p v st = writeEmc off v st)
    ∨ (r = .vic ∧ ∃ off, writeDevice r p v st = writeVic off v st) := by
  unfold writeDevice
  split
  · split
    · exact .inr (.inl ⟨_, rfl⟩)
    split
    · exact .inr (.inr (.inl ⟨_, rfl⟩))
    · exact .inl rfl
  · split
    · exact .inr (.inr (.inr (.inl ⟨_, rfl⟩)))
    · exact .inl rfl
  · exact .inr (.inr (.inr (.inr ⟨rfl, _, rfl⟩)))
  · exact .inl rfl

/-- `t` is `st` but for platform registers, what a device write may change. -/
def AfterDeviceWrite (st t : State) : Prop :=
  ∃ vic ext sys pins emc power n, t = { st with
    vic := vic, ext := ext, sys := sys, pinConn := pins, emc := emc, power := power, freeIdx := n }

theorem AfterDeviceWrite.of_ok {st t u : State} (h : Access.ok () u = .ok () t) (hu : AfterDeviceWrite st u) :
    AfterDeviceWrite st t := by
  injection h with _ ht
  exact ht ▸ hu

theorem writePins_ok {off : Nat} {v : Word} {st t : State} (h : writePins off v st = .ok () t) : AfterDeviceWrite st t := by
  unfold writePins at h
  split at h
  · exact .of_ok h ⟨_, _, _, _, _, _, _, rfl⟩
  split at h
  · exact .of_ok h ⟨_, _, _, _, _, _, _, rfl⟩
  split at h
  · exact .of_ok h ⟨_, _, _, _, _, _, _, rfl⟩
  · cases h

theorem writeSysReg_ok {r : SysReg} {v : Word} {st t : State} (h : writeSysReg r v st = .ok () t) :
    AfterDeviceWrite st t := by
  cases r <;> simp only [writeSysReg] at h
  case mamcr => split at h <;> first | exact .of_ok h ⟨_, _, _, _, _, _, _, rfl⟩ | cases h
  case mamtim => split at h <;> first | exact .of_ok h ⟨_, _, _, _, _, _, _, rfl⟩ | cases h
  case memmap => split at h <;> first | exact .of_ok h ⟨_, _, _, _, _, _, _, rfl⟩ | cases h
  case pcon =>
    unfold writePcon at h
    split at h
    · cases h
    · exact .of_ok h ⟨_, _, _, _, _, _, _, rfl⟩
  case clksrcsel =>
    split at h
    · cases h
    split at h
    · cases h
    · exact .of_ok h ⟨_, _, _, _, _, _, _, rfl⟩
  case pllfeed =>
    refine .of_ok h ?_
    unfold writePllfeed
    split
    · exact ⟨_, _, _, _, _, _, _, rfl⟩
    split <;> exact ⟨_, _, _, _, _, _, _, rfl⟩
  all_goals exact .of_ok h ⟨_, _, _, _, _, _, _, rfl⟩

theorem writeSystem_ok {off : Nat} {v : Word} {st t : State} (h : writeSystem off v st = .ok () t) :
    AfterDeviceWrite st t := by
  unfold writeSystem at h
  split at h
  · cases h
  · exact writeSysReg_ok h

theorem writeEmc_ok {off : Nat} {v : Word} {st t : State} (h : writeEmc off v st = .ok () t) : AfterDeviceWrite st t := by
  unfold writeEmc at h
  split at h
  · cases h
  split at h
  · cases h
  split at h
  · exact .of_ok h ⟨_, _, _, _, _, _, _, rfl⟩
  · exact .of_ok h ⟨_, _, _, _, _, _, _, rfl⟩

theorem writeVic_ok {off : Nat} {v : Word} {st t : State} (h : writeVic off v st = .ok () t) : AfterDeviceWrite st t := by
  unfold writeVic at h
  split at h
  · cases h
  split at h
  · cases h
  · exact .of_ok h ⟨_, _, _, _, _, _, _, rfl⟩

theorem writePins_abort {off : Nat} {v : Word} {st t : State} : writePins off v st ≠ .abort t := by
  unfold writePins
  split
  · exact fun h => (by cases h)
  split
  · exact fun h => (by cases h)
  split <;> exact fun h => (by cases h)

theorem writeSystem_abort {off : Nat} {v : Word} {st t : State} : writeSystem off v st ≠ .abort t := by
  intro h
  unfold writeSystem at h
  split at h
  · cases h
  rename_i r _
  cases r <;> simp only [writeSysReg] at h
  case pcon => unfold writePcon at h; split at h <;> cases h
  case clksrcsel =>
    split at h
    · cases h
    split at h <;> cases h
  case mamcr => split at h <;> cases h
  case mamtim => split at h <;> cases h
  case memmap => split at h <;> cases h
  all_goals cases h

theorem writeEmc_abort {off : Nat} {v : Word} {st t : State} : writeEmc off v st ≠ .abort t := by
  unfold writeEmc
  split
  · exact fun h => (by cases h)
  split
  · exact fun h => (by cases h)
  split <;> exact fun h => (by cases h)

theorem writeVic_abort {off : Nat} {v : Word} {st t : State} (h : writeVic off v st = .abort t) :
    t = st ∧ st.mode = .user := by
  unfold writeVic at h
  split at h
  · cases h
  split at h
  · rename_i hf
    injection h with ht
    exact ⟨ht.symm, vicForbids_user hf⟩
  · cases h

/-- A device write that answers changes platform registers only. -/
theorem writeDevice_ok {r : Region} {p : Nat} {v : Word} {st t : State} (h : writeDevice r p v st = .ok () t) :
    AfterDeviceWrite st t := by
  rcases writeDevice_cases r p v st with e | ⟨o, e⟩ | ⟨o, e⟩ | ⟨o, e⟩ | ⟨_, o, e⟩ <;> rw [e] at h
  · cases h
  · exact writePins_ok h
  · exact writeSystem_ok h
  · exact writeEmc_ok h
  · exact writeVic_ok h

/-- Only the VIC aborts a device write, in User mode, and then nothing changes (R478). -/
theorem writeDevice_abort {r : Region} {p : Nat} {v : Word} {st t : State} (h : writeDevice r p v st = .abort t) :
    t = st ∧ r = .vic ∧ st.mode = .user := by
  rcases writeDevice_cases r p v st with e | ⟨o, e⟩ | ⟨o, e⟩ | ⟨o, e⟩ | ⟨hv, o, e⟩ <;> rw [e] at h
  · cases h
  · exact absurd h writePins_abort
  · exact absurd h writeSystem_abort
  · exact absurd h writeEmc_abort
  · exact ⟨(writeVic_abort h).1, hv, (writeVic_abort h).2⟩

/-- The two ways a store succeeds: bytes of a RAM, or the register of a device. -/
theorem memWrite_ok {a v : Word} {w : Width} {st t : State} (h : memWrite a w v st = .ok () t) :
    (∃ p q, remap st.sys.memmap a = some p ∧ (regionOf p = .sram ∨ regionOf p = .otherRam)
      ∧ alignAddress w p = some q ∧ intoPrefetch q st = false ∧ t = storeMemory (regionOf p) q w v st)
    ∨ ∃ p armed, remap st.sys.memmap a = some p ∧ (regionOf p).kind = .device ∧ wholeWord w p = true
      ∧ writeDevice (regionOf p) p v { st with sys := { st.sys with feedArmed := armed } } = .ok () t := by
  unfold memWrite at h
  split at h
  · cases h
  rename_i p hp
  split at h
  · cases h
  · rename_i hk
    split at h
    · rename_i hw
      split at h
      · exact .inr ⟨p, st.sys.feedArmed, hp, hk, hw, h⟩
      · exact .inr ⟨p, _, hp, hk, hw, h⟩
    · cases h
  · rename_i hk
    split at h
    · cases h
    rename_i q hq
    split at h
    · cases h
    split at h
    · cases h
    rename_i hf
    split at h
    · cases h
    rename_i hb
    split at h
    · cases h
    rename_i hpre
    injection h with _ ht
    have hr : regionOf p = .sram ∨ regionOf p = .otherRam := by
      rcases memory_kind hk with h | h | h | h
      · exact absurd h hf
      · exact .inl h
      · exact .inr h
      · exact absurd h hb
    exact .inl ⟨p, q, hp, hr, hq, by simpa using hpre, ht.symm⟩

/-- A store that succeeds changes memory and platform registers only. -/
theorem memWrite_afterWrite {a v : Word} {w : Width} {st t : State} (h : memWrite a w v st = .ok () t) :
    AfterWrite st t := by
  rcases memWrite_ok h with ⟨p, q, _, _, _, _, rfl⟩ | ⟨p, armed, _, _, _, hd⟩
  · exact ⟨_, _, _, _, _, _, _, _, _, rfl⟩
  · obtain ⟨vic, ext, sys, pins, emc, power, n, rfl⟩ := writeDevice_ok hd
    exact ⟨_, _, _, _, _, _, _, _, _, rfl⟩

/-- A store that aborts changes nothing but an armed PLL feed. -/
theorem memWrite_abort {a v : Word} {w : Width} {st t : State} (h : memWrite a w v st = .abort t) : AfterRead st t := by
  unfold memWrite at h
  split at h
  · cases h
  split at h
  · injection h with ht
    exact ht ▸ disarmFeed_afterRead _ _
  · split at h
    · rw [(writeDevice_abort h).1]
      split
      · exact .refl _
      · exact disarmFeed_afterRead _ _
    · cases h
  · split at h
    · cases h
    split at h
    · cases h
    split at h
    · cases h
    split at h
    · cases h
    split at h <;> cases h

/-! ### Transfers -/

/-- An aborted transfer enters Abort mode, the base being the old or the written-back value (R211, D21). -/
theorem abortTransfer_next {rn : RegNum} {wb : Option Word} {st t : State} (h : abortTransfer rn wb st = .next t) :
    t = takeException .dataAbort st ∨ t = takeException .dataAbort st.drawn
      ∨ ∃ v, wb = some v ∧ t = takeException .dataAbort (st.drawn.setReg rn v) := by
  unfold abortTransfer at h
  split at h
  · exact .inl (Host.Outcome.next.inj h).symm
  · split at h
    · exact .inr (.inr ⟨_, rfl, (Host.Outcome.next.inj h).symm⟩)
    · exact .inr (.inl (Host.Outcome.next.inj h).symm)

theorem writeLoaded_next {rd : RegNum} {v : Word} {st t : State} (h : writeLoaded rd v st = .next t) :
    (rd = 15 ∧ v.extractLsb' 0 2 = 0 ∧ t = { st with pc := v })
    ∨ (rd ≠ 15 ∧ st.pc ≠ 0xFFFFFFFC ∧ t = { st.setReg rd v with pc := st.pc + 4 }) := by
  unfold writeLoaded at h
  split at h
  · rename_i hr
    obtain ⟨hv, ht⟩ := branchTo_next.mp h
    exact .inl ⟨hr, hv, ht⟩
  · rename_i hr
    obtain ⟨hp, ht⟩ := advance_next.mp h
    rw [setReg_pc _ _ _ hr] at hp ht
    exact .inr ⟨hr, hp, ht⟩

/-- The two ways a load gives a next state: the value arrives, or the access aborts. -/
theorem loadTransfer_next {w : Width} {ext : Word → Word} {rn rd : RegNum} {m : Address} {st t : State}
    (h : loadTransfer w ext rn rd m st = .next t) :
    (∃ x s1, memRead m.addr w st = .ok x s1 ∧ writeLoaded rd (ext x) (writeBase rn m.wb s1) = .next t)
    ∨ ∃ s1, memRead m.addr w st = .abort s1 ∧ abortTransfer rn m.wb s1 = .next t := by
  unfold loadTransfer at h
  split at h
  · cases h
  · exact .inr ⟨_, by assumption, h⟩
  · exact .inl ⟨_, _, by assumption, h⟩

/-- The two ways a store gives a next state: the datum is stored, or the access aborts. -/
theorem storeTransfer_next {w : Width} {rn : RegNum} {v : Word} {m : Address} {st t : State}
    (h : storeTransfer w rn v m st = .next t) :
    (∃ s1, memWrite m.addr w v st = .ok () s1 ∧ advance (writeBase rn m.wb s1) = .next t)
    ∨ ∃ s1, memWrite m.addr w v st = .abort s1 ∧ abortTransfer rn m.wb s1 = .next t := by
  unfold storeTransfer at h
  split at h
  · cases h
  · exact .inr ⟨_, by assumption, h⟩
  · exact .inl ⟨_, by assumption, h⟩

/-- The ways a swap gives a next state: both accesses succeed, or the read or the write aborts. -/
theorem swapTransfer_next {w : Width} {rn rd rm : RegNum} {st t : State} (h : swapTransfer w rn rd rm st = .next t) :
    (∃ x s1 s2, memRead (st.readReg rn) w st = .ok x s1 ∧ memWrite (st.readReg rn) w (st.readReg rm) s1 = .ok () s2
      ∧ advance (s2.setReg rd x) = .next t)
    ∨ ∃ s1, AfterRead st s1 ∧ t = takeException .dataAbort s1 := by
  unfold swapTransfer at h
  split at h
  · cases h
  · rename_i s1 hr
    obtain ⟨p, _, rfl⟩ := memRead_abort hr
    exact .inr ⟨_, disarmFeed_afterRead _ _, (Host.Outcome.next.inj h).symm⟩
  · rename_i x s1 hr
    split at h
    · cases h
    · rename_i s2 hw
      exact .inr ⟨_, (memRead_ok hr).trans (memWrite_abort hw), (Host.Outcome.next.inj h).symm⟩
    · rename_i s2 hw
      exact .inl ⟨x, s1, s2, hr, hw, h⟩

/-- The four ways the result of a data-processing instruction is written (R251, R253). -/
theorem writeAlu_next {s : Bool} {rd : RegNum} {r : AluResult} {st t : State} (h : writeAlu s rd r st = .next t) :
    (rd = 15 ∧ s = true ∧ exceptionReturn r.value st = .next t)
    ∨ (rd = 15 ∧ s = false ∧ r.value.extractLsb' 0 2 = 0 ∧ t = { st with pc := r.value })
    ∨ (rd ≠ 15 ∧ st.pc ≠ 0xFFFFFFFC
      ∧ t = { (if s then st.setFlags r.flags else st).setReg rd r.value with pc := st.pc + 4 }) := by
  unfold writeAlu at h
  split at h
  · rename_i hr
    cases s
    · obtain ⟨hv, ht⟩ := branchTo_next.mp h
      exact .inr (.inl ⟨hr, rfl, hv, ht⟩)
    · exact .inl ⟨hr, rfl, h⟩
  · rename_i hr
    obtain ⟨hp, ht⟩ := advance_next.mp h
    rw [setReg_pc _ _ _ hr] at hp ht
    cases s
    · exact .inr (.inr ⟨hr, hp, ht⟩)
    · exact .inr (.inr ⟨hr, hp, ht⟩)

/-! ### Blocks -/

theorem blockRegs_ne_pc {list : BitVec 16} {r : RegNum} (h : r ∈ blockRegs list) : r ≠ 15 := by
  unfold blockRegs at h
  simp only [List.mem_map, List.mem_filter, List.mem_range] at h
  obtain ⟨k, ⟨hk, _⟩, rfl⟩ := h
  intro e
  have h15 : (BitVec.ofNat 4 k).toNat = 15 := by rw [e]; rfl
  rw [BitVec.toNat_ofNat, Nat.mod_eq_of_lt (by omega)] at h15
  omega

/-- Loading registers of a list without R15 changes the registers and what reads may change, whether or not it aborts. -/
theorem loadRegs_frame {user : Bool} {regs : List RegNum} {a : Word} {st : State} (hr : ∀ r ∈ regs, r ≠ 15) {t : State}
    (h : loadRegs user regs a st = .abort t ∨ ∃ x, loadRegs user regs a st = .ok x t) :
    ∃ rs, AfterRead { st with regs := rs } t := by
  induction regs generalizing a st with
  | nil =>
    rcases h with h | ⟨x, h⟩
    · cases h
    · injection h with _ ht
      exact ⟨st.regs, ht ▸ .refl _⟩
  | cons r rest ih =>
    have hne : r ≠ 15 := hr r (by simp)
    have hrest : ∀ x ∈ rest, x ≠ 15 := fun x hx => hr x (by simp [hx])
    rw [loadRegs] at h
    split at h
    · rcases h with h | ⟨x, h⟩ <;> cases h
    · rename_i s1 hm
      obtain ⟨p, _, rfl⟩ := memRead_abort hm
      rcases h with h | ⟨x, h⟩
      · injection h with ht
        exact ⟨st.regs, ht ▸ disarmFeed_afterRead _ _⟩
      · cases h
    · rename_i v s1 hm
      obtain ⟨a1, b1, c1, d1, rfl⟩ := memRead_ok hm
      obtain ⟨rs, a2, b2, c2, d2, rfl⟩ := ih hrest h
      refine ⟨rs, a2, b2, c2, d2, ?_⟩
      cases user
      · simp only [Bool.false_eq_true, if_false, State.setReg, State.setRegIn, if_neg hne]
      · simp only [if_true, State.setRegIn, if_neg hne]

/-- Storing registers changes memory and platform registers only, whether or not it aborts. -/
theorem storeRegs_frame {user : Bool} {regs : List RegNum} {a : Word} {st t : State}
    (h : storeRegs user regs a st = .abort t ∨ ∃ x, storeRegs user regs a st = .ok x t) : AfterWrite st t := by
  induction regs generalizing a st with
  | nil =>
    rcases h with h | ⟨x, h⟩
    · cases h
    · injection h with _ ht
      exact ht ▸ .refl _
  | cons r rest ih =>
    rw [storeRegs] at h
    split at h
    · rcases h with h | ⟨x, h⟩ <;> cases h
    · rename_i s1 hm
      rcases h with h | ⟨x, h⟩
      · injection h with ht
        exact ht ▸ (memWrite_abort hm).afterWrite
      · cases h
    · rename_i s1 hm
      exact (memWrite_afterWrite hm).trans (ih h)

/-! ### The boundary and the step -/

/-- The ways a boundary ends the step: a reset, a chip that stays halted, an interrupt. -/
theorem boundary_done {st t : State} (h : boundary st = .done t) :
    (∃ cause, st.env.resetAsked = some cause ∧ resetEffective cause (atBoundary st) = true
      ∧ t = takeReset cause (atBoundary st))
    ∨ ((atBoundary st).staysHalted = true ∧ t = atBoundary st)
    ∨ ∃ e, (wakeUp (atBoundary st)).interruptTaken = some e ∧ t = takeException e (wakeUp (atBoundary st)) := by
  have running : boundaryRunning (atBoundary st) = .done t →
      ((atBoundary st).staysHalted = true ∧ t = atBoundary st)
      ∨ ∃ e, (wakeUp (atBoundary st)).interruptTaken = some e ∧ t = takeException e (wakeUp (atBoundary st)) := by
    intro h
    unfold boundaryRunning at h
    split at h
    · rename_i hs
      injection h with ht
      exact .inl ⟨hs, ht.symm⟩
    · unfold interruptOrRun at h
      split at h
      · rename_i e he
        injection h with ht
        exact .inr ⟨e, he, ht.symm⟩
      · cases h
  unfold boundary at h
  split at h
  · rename_i cause hc
    split at h
    · rename_i he
      injection h with ht
      exact .inl ⟨cause, hc, he, ht.symm⟩
    · exact .inr (running h)
  · exact .inr (running h)

/-- Where the next instruction runs: the sampled state, awake, with no interrupt to take. -/
theorem boundary_run {st t : State} (h : boundary st = .run t) :
    t = wakeUp (atBoundary st) ∧ (atBoundary st).staysHalted = false ∧ t.interruptTaken = none := by
  have running : boundaryRunning (atBoundary st) = .run t →
      t = wakeUp (atBoundary st) ∧ (atBoundary st).staysHalted = false ∧ t.interruptTaken = none := by
    intro h
    unfold boundaryRunning at h
    split at h
    · cases h
    · rename_i hs
      unfold interruptOrRun at h
      split at h
      · cases h
      · rename_i hn
        injection h with ht
        exact ⟨ht.symm, by simpa using hs, ht ▸ hn⟩
  unfold boundary at h
  split at h
  · split at h
    · cases h
    · exact running h
  · exact running h

/-- Waking changes the power mode and PCON only. -/
theorem wakeUp_frame (st : State) : ∃ pcon power, wakeUp st = { st with power := power, sys := { st.sys with pcon := pcon } } := by
  unfold wakeUp
  split
  · exact ⟨st.sys.pcon, st.power, rfl⟩
  · exact ⟨_, _, rfl⟩

/-- A fetch reads a word of a memory or aborts, and changes nothing. -/
theorem fetch_cases {st : State} :
    (∃ p, remap st.sys.memmap st.pc = some p ∧ ((regionOf p).kind = .memory ∧ p % 4 = 0) ∧ fetch st = .ok (st.bytesAt p 4) st)
    ∨ (∃ p, remap st.sys.memmap st.pc = some p ∧ (regionOf p).kind ≠ .memory ∧ fetch st = .abort st)
    ∨ ∃ f, fetch st = .stop f := by
  unfold fetch
  split
  · exact .inr (.inr ⟨_, rfl⟩)
  rename_i p hp
  split
  · rename_i hk
    exact .inr (.inl ⟨p, hp, by rw [hk]; decide, rfl⟩)
  · rename_i hk
    exact .inr (.inl ⟨p, hp, by rw [hk]; decide, rfl⟩)
  · rename_i hk
    split
    · exact .inr (.inr ⟨_, rfl⟩)
    split
    · exact .inr (.inr ⟨_, rfl⟩)
    · rename_i h4 _
      exact .inl ⟨p, hp, ⟨hk, by simpa using h4⟩, rfl⟩

/-- The ways a step gives a next state: the boundary ends it, the fetch aborts, a word with a wrong should-be field and a
failed condition is passed over, or the decoded instruction runs. -/
theorem step_next {st t : State} (h : step st = .next t) :
    boundary st = .done t
    ∨ ∃ s1, boundary st = .run s1 ∧ s1.thumb = false
      ∧ ((fetch s1 = .abort s1 ∧ t = takeException .prefetchAbort s1)
        ∨ ∃ w, fetch s1 = .ok w s1
          ∧ ((∃ c, decodeWord w = .error (.shouldBe c) ∧ s1.passes c = false
              ∧ advance { s1 with userBankLdm := false } = .next t)
            ∨ ∃ i, decodeWord w = .ok i ∧ bankHazard i s1 = false ∧ exec i { s1 with userBankLdm := false } = .next t)) := by
  unfold step stepOnce at h
  split at h
  · rename_i s1 hb
    exact .inl (by rw [hb, Host.Outcome.next.inj h])
  · rename_i s1 hb
    unfold runNext at h
    split at h
    · cases h
    rename_i hth
    refine .inr ⟨s1, hb, by simpa using hth, ?_⟩
    rcases fetch_cases (st := s1) with ⟨p, hp, hm, hf⟩ | ⟨p, hp, hm, hf⟩ | ⟨f, hf⟩
    · rw [hf] at h
      simp only [runWord] at h
      refine .inr ⟨_, hf, ?_⟩
      rw [show wordBytes (s1.bytesAt p 4) = wordBytes (s1.bytesAt p 4) ++ [] by simp, decodeBytes_wordBytes] at h
      cases hd : decodeWord (s1.bytesAt p 4) with
      | ok i =>
        rw [hd] at h
        simp only [runInstr] at h
        split at h
        · cases h
        · rename_i hz
          exact .inr ⟨i, rfl, by simpa using hz, h⟩
      | error e =>
        rw [hd] at h
        cases e <;> simp only [runUndecodable] at h <;> try cases h
        split at h
        · cases h
        · rename_i c hc
          exact .inl ⟨c, rfl, by simpa using hc, h⟩
    · rw [hf] at h
      exact .inl ⟨hf, (Host.Outcome.next.inj h).symm⟩
    · rw [hf] at h
      cases h

end Sys2Proof.Machine
end

