-- ==== Sys2Proof/Tests/Slice0.lean ====
section
/-! SUPPORT. Tests: the operand checks refuse an ill-formed instruction each; every instruction's word, written bit by bit
from its encoding table, decodes to it; the spec's worked examples (95_test_vectors.md, named in each comment); and for
each statement with hypotheses a state and operands that meet them. -/
namespace Sys2Proof.Tests
open Sys2Proof.Machine

/-! ### Each operand check refuses (R651) -/

theorem test_illFormed_shiftByRegisterPc :
    Instr.illFormed (.movShiftReg .al false 0 { rm := 15, kind := .lsl, rs := 2 }) = some .shiftByRegisterPc := by decide

theorem test_illFormed_multiplyPc :
    Instr.illFormed (.mla .al false 0 15 2 1) = some .multiplyPc := by decide

theorem test_illFormed_multiplySameRegister :
    Instr.illFormed (.mul .al false 0 1 0) = some .multiplySameRegister := by decide

theorem test_illFormed_offsetPc :
    Instr.illFormed (.ldrRegPre .al true false 1 0 { rm := 15, kind := .lsl, amount := 0 }) = some .offsetPc := by decide

theorem test_illFormed_writebackPc :
    Instr.illFormed (.ldrImmPost .al true 15 0 4) = some .writebackPc := by decide

theorem test_illFormed_writebackTransferred :
    Instr.illFormed (.ldrImmPost .al true 0 0 4) = some .writebackTransferred := by decide

theorem test_illFormed_narrowTransferPc :
    Instr.illFormed (.ldrbImmPre .al true false 1 15 0) = some .narrowTransferPc := by decide

theorem test_illFormed_emptyList :
    Instr.illFormed (.ldm .al false true false false 0 0) = some .emptyList := by decide

theorem test_illFormed_blockBasePc :
    Instr.illFormed (.ldm .al false true false false 15 1) = some .blockBasePc := by decide

theorem test_illFormed_loadBaseInList :
    Instr.illFormed (.ldm .al false true false true 0 3) = some .loadBaseInList := by decide

theorem test_illFormed_storeBaseNotLowest :
    Instr.illFormed (.stm .al false true false true 1 3) = some .storeBaseNotLowest := by decide

theorem test_illFormed_userBankWriteback :
    Instr.illFormed (.stm .al false true true true 0 0x7F00) = some .userBankWriteback := by decide

theorem test_illFormed_swapPc :
    Instr.illFormed (.swp .al 15 1 2) = some .swapPc := by decide

theorem test_illFormed_swapSameRegister :
    Instr.illFormed (.swp .al 1 0 1) = some .swapSameRegister := by decide

theorem test_illFormed_mrsPc :
    Instr.illFormed (.mrs .al false 15) = some .mrsPc := by decide

theorem test_illFormed_msrPc :
    Instr.illFormed (.msrReg .al false 15 15) = some .msrPc := by decide

theorem test_illFormed_blxPc :
    Instr.illFormed (.blxReg .al 15) = some .blxPc := by decide

theorem test_illFormed_coprocessorAddressForm :
    Instr.illFormed (.ldc .al false false false false 0 4 3 0) = some .coprocessorAddressForm := by decide


/-- The longer multiplies, the register lists and the lowest base have their own checks. -/
theorem test_illFormed_more :
    Instr.illFormed (.umull .al false 0 0 3 2) = some .multiplySameRegister
    ∧ Instr.illFormed (.ldm .al false true true true 0 2) = some .userBankWriteback
    ∧ Instr.illFormed (.stm .al false true false true 0 3) = none
    ∧ Instr.illFormed (.ldm .al false true true true 0 0x8002) = none := by decide

/-! ### Decoding, word by word from the encoding tables -/

/-- The instruction that a 32-bit word decodes to. -/
def dec (w : Nat) : Option Instr := decodeTableWord 32 w

/-- `cond 001 opcode S Rn Rd rotate imm8` (R124 to R126). -/
theorem test_decode_data_processing_immediate :
    dec 0b1110_001_0000_1_0001_0010_1111_01000001 = some (.andImm .al true 1 2 { rot := 15, imm8 := 0x41 })
    ∧ dec 0b1110_001_0001_1_0001_0010_1111_01000001 = some (.eorImm .al true 1 2 { rot := 15, imm8 := 0x41 })
    ∧ dec 0b1110_001_0010_1_0001_0010_1111_01000001 = some (.subImm .al true 1 2 { rot := 15, imm8 := 0x41 })
    ∧ dec 0b1110_001_0011_1_0001_0010_1111_01000001 = some (.rsbImm .al true 1 2 { rot := 15, imm8 := 0x41 })
    ∧ dec 0b1110_001_0100_1_0001_0010_1111_01000001 = some (.addImm .al true 1 2 { rot := 15, imm8 := 0x41 })
    ∧ dec 0b1110_001_0101_1_0001_0010_1111_01000001 = some (.adcImm .al true 1 2 { rot := 15, imm8 := 0x41 })
    ∧ dec 0b1110_001_0110_1_0001_0010_1111_01000001 = some (.sbcImm .al true 1 2 { rot := 15, imm8 := 0x41 })
    ∧ dec 0b1110_001_0111_1_0001_0010_1111_01000001 = some (.rscImm .al true 1 2 { rot := 15, imm8 := 0x41 })
    ∧ dec 0b1110_001_1000_1_0001_0000_1111_01000001 = some (.tstImm .al 1 { rot := 15, imm8 := 0x41 })
    ∧ dec 0b1110_001_1001_1_0001_0000_1111_01000001 = some (.teqImm .al 1 { rot := 15, imm8 := 0x41 })
    ∧ dec 0b1110_001_1010_1_0001_0000_1111_01000001 = some (.cmpImm .al 1 { rot := 15, imm8 := 0x41 })
    ∧ dec 0b1110_001_1011_1_0001_0000_1111_01000001 = some (.cmnImm .al 1 { rot := 15, imm8 := 0x41 })
    ∧ dec 0b1110_001_1100_1_0001_0010_1111_01000001 = some (.orrImm .al true 1 2 { rot := 15, imm8 := 0x41 })
    ∧ dec 0b1110_001_1101_1_0000_0010_1111_01000001 = some (.movImm .al true 2 { rot := 15, imm8 := 0x41 })
    ∧ dec 0b1110_001_1110_1_0001_0010_1111_01000001 = some (.bicImm .al true 1 2 { rot := 15, imm8 := 0x41 })
    ∧ dec 0b1110_001_1111_1_0000_0010_1111_01000001 = some (.mvnImm .al true 2 { rot := 15, imm8 := 0x41 }) := by decide

/-- `cond 000 opcode S Rn Rd shift_imm shift 0 Rm` (R127). -/
theorem test_decode_data_processing_immediate_shift :
    dec 0b0001_000_0000_0_0011_0100_00101_10_0_0110 = some (.andShiftImm .ne false 3 4 { rm := 6, kind := .asr, amount := 5 })
    ∧ dec 0b0001_000_0001_0_0011_0100_00101_10_0_0110 = some (.eorShiftImm .ne false 3 4 { rm := 6, kind := .asr, amount := 5 })
    ∧ dec 0b0001_000_0010_0_0011_0100_00101_10_0_0110 = some (.subShiftImm .ne false 3 4 { rm := 6, kind := .asr, amount := 5 })
    ∧ dec 0b0001_000_0011_0_0011_0100_00101_10_0_0110 = some (.rsbShiftImm .ne false 3 4 { rm := 6, kind := .asr, amount := 5 })
    ∧ dec 0b0001_000_0100_0_0011_0100_00101_10_0_0110 = some (.addShiftImm .ne false 3 4 { rm := 6, kind := .asr, amount := 5 })
    ∧ dec 0b0001_000_0101_0_0011_0100_00101_10_0_0110 = some (.adcShiftImm .ne false 3 4 { rm := 6, kind := .asr, amount := 5 })
    ∧ dec 0b0001_000_0110_0_0011_0100_00101_10_0_0110 = some (.sbcShiftImm .ne false 3 4 { rm := 6, kind := .asr, amount := 5 })
    ∧ dec 0b0001_000_0111_0_0011_0100_00101_10_0_0110 = some (.rscShiftImm .ne false 3 4 { rm := 6, kind := .asr, amount := 5 })
    ∧ dec 0b0001_000_1000_1_0011_0000_00101_10_0_0110 = some (.tstShiftImm .ne 3 { rm := 6, kind := .asr, amount := 5 })
    ∧ dec 0b0001_000_1001_1_0011_0000_00101_10_0_0110 = some (.teqShiftImm .ne 3 { rm := 6, kind := .asr, amount := 5 })
    ∧ dec 0b0001_000_1010_1_0011_0000_00101_10_0_0110 = some (.cmpShiftImm .ne 3 { rm := 6, kind := .asr, amount := 5 })
    ∧ dec 0b0001_000_1011_1_0011_0000_00101_10_0_0110 = some (.cmnShiftImm .ne 3 { rm := 6, kind := .asr, amount := 5 })
    ∧ dec 0b0001_000_1100_0_0011_0100_00101_10_0_0110 = some (.orrShiftImm .ne false 3 4 { rm := 6, kind := .asr, amount := 5 })
    ∧ dec 0b0001_000_1101_0_0000_0100_00101_10_0_0110 = some (.movShiftImm .ne false 4 { rm := 6, kind := .asr, amount := 5 })
    ∧ dec 0b0001_000_1110_0_0011_0100_00101_10_0_0110 = some (.bicShiftImm .ne false 3 4 { rm := 6, kind := .asr, amount := 5 })
    ∧ dec 0b0001_000_1111_0_0000_0100_00101_10_0_0110 = some (.mvnShiftImm .ne false 4 { rm := 6, kind := .asr, amount := 5 }) := by decide

/-- `cond 000 opcode S Rn Rd Rs 0 shift 1 Rm` (R128). -/
theorem test_decode_data_processing_register_shift :
    dec 0b1010_000_0000_1_1100_0010_0011_0_11_1_0100 = some (.andShiftReg .ge true 12 2 { rm := 4, kind := .ror, rs := 3 })
    ∧ dec 0b1010_000_0001_1_1100_0010_0011_0_11_1_0100 = some (.eorShiftReg .ge true 12 2 { rm := 4, kind := .ror, rs := 3 })
    ∧ dec 0b1010_000_0010_1_1100_0010_0011_0_11_1_0100 = some (.subShiftReg .ge true 12 2 { rm := 4, kind := .ror, rs := 3 })
    ∧ dec 0b1010_000_0011_1_1100_0010_0011_0_11_1_0100 = some (.rsbShiftReg .ge true 12 2 { rm := 4, kind := .ror, rs := 3 })
    ∧ dec 0b1010_000_0100_1_1100_0010_0011_0_11_1_0100 = some (.addShiftReg .ge true 12 2 { rm := 4, kind := .ror, rs := 3 })
    ∧ dec 0b1010_000_0101_1_1100_0010_0011_0_11_1_0100 = some (.adcShiftReg .ge true 12 2 { rm := 4, kind := .ror, rs := 3 })
    ∧ dec 0b1010_000_0110_1_1100_0010_0011_0_11_1_0100 = some (.sbcShiftReg .ge true 12 2 { rm := 4, kind := .ror, rs := 3 })
    ∧ dec 0b1010_000_0111_1_1100_0010_0011_0_11_1_0100 = some (.rscShiftReg .ge true 12 2 { rm := 4, kind := .ror, rs := 3 })
    ∧ dec 0b1010_000_1000_1_1100_0000_0011_0_11_1_0100 = some (.tstShiftReg .ge 12 { rm := 4, kind := .ror, rs := 3 })
    ∧ dec 0b1010_000_1001_1_1100_0000_0011_0_11_1_0100 = some (.teqShiftReg .ge 12 { rm := 4, kind := .ror, rs := 3 })
    ∧ dec 0b1010_000_1010_1_1100_0000_0011_0_11_1_0100 = some (.cmpShiftReg .ge 12 { rm := 4, kind := .ror, rs := 3 })
    ∧ dec 0b1010_000_1011_1_1100_0000_0011_0_11_1_0100 = some (.cmnShiftReg .ge 12 { rm := 4, kind := .ror, rs := 3 })
    ∧ dec 0b1010_000_1100_1_1100_0010_0011_0_11_1_0100 = some (.orrShiftReg .ge true 12 2 { rm := 4, kind := .ror, rs := 3 })
    ∧ dec 0b1010_000_1101_1_0000_0010_0011_0_11_1_0100 = some (.movShiftReg .ge true 2 { rm := 4, kind := .ror, rs := 3 })
    ∧ dec 0b1010_000_1110_1_1100_0010_0011_0_11_1_0100 = some (.bicShiftReg .ge true 12 2 { rm := 4, kind := .ror, rs := 3 })
    ∧ dec 0b1010_000_1111_1_0000_0010_0011_0_11_1_0100 = some (.mvnShiftReg .ge true 2 { rm := 4, kind := .ror, rs := 3 }) := by decide

/-- `cond 000000 A S Rd Rn Rs 1001 Rm` (R129), `cond 00001 U A S RdHi RdLo Rs 1001 Rm` (R130), and
`cond 00010 B 00 Rn Rd 00001001 Rm` (R131). -/
theorem test_decode_multiply_swap :
    dec 0b1110_000000_0_1_0001_0000_0010_1001_0011 = some (.mul .al true 1 2 3)
    ∧ dec 0b1110_000000_1_0_0001_0100_0010_1001_0011 = some (.mla .al false 1 4 2 3)
    ∧ dec 0b1110_00001_0_0_1_0001_0100_0010_1001_0011 = some (.umull .al true 1 4 2 3)
    ∧ dec 0b1110_00001_0_1_0_0001_0100_0010_1001_0011 = some (.umlal .al false 1 4 2 3)
    ∧ dec 0b1110_00001_1_0_1_0001_0100_0010_1001_0011 = some (.smull .al true 1 4 2 3)
    ∧ dec 0b1110_00001_1_1_0_0001_0100_0010_1001_0011 = some (.smlal .al false 1 4 2 3)
    ∧ dec 0b1110_00010_0_00_0001_0010_00001001_0011 = some (.swp .al 1 2 3)
    ∧ dec 0b1110_00010_1_00_0001_0010_00001001_0011 = some (.swpb .al 1 2 3) := by decide

/-- `cond 000 P U I W L Rn Rd immH 1 S H 1 immL` (R133). -/
theorem test_decode_halfword_transfers :
    dec 0b1110_000_1_1_1_1_1_0001_0010_1010_1_01_1_0101 = some (.ldrhImmPre .al true true 1 2 0xA5)
    ∧ dec 0b1110_000_0_0_1_0_1_0001_0010_1010_1_01_1_0101 = some (.ldrhImmPost .al false 1 2 0xA5)
    ∧ dec 0b1110_000_1_1_0_0_1_0001_0010_0000_1_01_1_0101 = some (.ldrhRegPre .al true false 1 2 5)
    ∧ dec 0b1110_000_0_0_0_0_1_0001_0010_0000_1_01_1_0101 = some (.ldrhRegPost .al false 1 2 5)
    ∧ dec 0b1110_000_1_1_1_1_0_0001_0010_1010_1_01_1_0101 = some (.strhImmPre .al true true 1 2 0xA5)
    ∧ dec 0b1110_000_0_0_1_0_0_0001_0010_1010_1_01_1_0101 = some (.strhImmPost .al false 1 2 0xA5)
    ∧ dec 0b1110_000_1_1_0_0_0_0001_0010_0000_1_01_1_0101 = some (.strhRegPre .al true false 1 2 5)
    ∧ dec 0b1110_000_0_0_0_0_0_0001_0010_0000_1_01_1_0101 = some (.strhRegPost .al false 1 2 5)
    ∧ dec 0b1110_000_1_1_1_1_1_0001_0010_1010_1_10_1_0101 = some (.ldrsbImmPre .al true true 1 2 0xA5)
    ∧ dec 0b1110_000_0_0_1_0_1_0001_0010_1010_1_10_1_0101 = some (.ldrsbImmPost .al false 1 2 0xA5)
    ∧ dec 0b1110_000_1_1_0_0_1_0001_0010_0000_1_10_1_0101 = some (.ldrsbRegPre .al true false 1 2 5)
    ∧ dec 0b1110_000_0_0_0_0_1_0001_0010_0000_1_10_1_0101 = some (.ldrsbRegPost .al false 1 2 5)
    ∧ dec 0b1110_000_1_1_1_1_1_0001_0010_1010_1_11_1_0101 = some (.ldrshImmPre .al true true 1 2 0xA5)
    ∧ dec 0b1110_000_0_0_1_0_1_0001_0010_1010_1_11_1_0101 = some (.ldrshImmPost .al false 1 2 0xA5)
    ∧ dec 0b1110_000_1_1_0_0_1_0001_0010_0000_1_11_1_0101 = some (.ldrshRegPre .al true false 1 2 5)
    ∧ dec 0b1110_000_0_0_0_0_1_0001_0010_0000_1_11_1_0101 = some (.ldrshRegPost .al false 1 2 5) := by decide

/-- `cond 01 I P U B W L Rn Rd offset` (R134). -/
theorem test_decode_word_and_byte_transfers :
    dec 0b1110_010_1_1_0_1_1_0001_0010_101000000101 = some (.ldrImmPre .al true true 1 2 0xA05)
    ∧ dec 0b1110_010_0_0_0_0_1_0001_0010_101000000101 = some (.ldrImmPost .al false 1 2 0xA05)
    ∧ dec 0b1110_011_1_1_0_0_1_0001_0010_01001_01_0_0101 = some (.ldrRegPre .al true false 1 2 { rm := 5, kind := .lsr, amount := 9 })
    ∧ dec 0b1110_011_0_0_0_0_1_0001_0010_01001_01_0_0101 = some (.ldrRegPost .al false 1 2 { rm := 5, kind := .lsr, amount := 9 })
    ∧ dec 0b1110_010_1_1_0_1_0_0001_0010_101000000101 = some (.strImmPre .al true true 1 2 0xA05)
    ∧ dec 0b1110_010_0_0_0_0_0_0001_0010_101000000101 = some (.strImmPost .al false 1 2 0xA05)
    ∧ dec 0b1110_011_1_1_0_0_0_0001_0010_01001_01_0_0101 = some (.strRegPre .al true false 1 2 { rm := 5, kind := .lsr, amount := 9 })
    ∧ dec 0b1110_011_0_0_0_0_0_0001_0010_01001_01_0_0101 = some (.strRegPost .al false 1 2 { rm := 5, kind := .lsr, amount := 9 })
    ∧ dec 0b1110_010_1_1_1_1_1_0001_0010_101000000101 = some (.ldrbImmPre .al true true 1 2 0xA05)
    ∧ dec 0b1110_010_0_0_1_0_1_0001_0010_101000000101 = some (.ldrbImmPost .al false 1 2 0xA05)
    ∧ dec 0b1110_011_1_1_1_0_1_0001_0010_01001_01_0_0101 = some (.ldrbRegPre .al true false 1 2 { rm := 5, kind := .lsr, amount := 9 })
    ∧ dec 0b1110_011_0_0_1_0_1_0001_0010_01001_01_0_0101 = some (.ldrbRegPost .al false 1 2 { rm := 5, kind := .lsr, amount := 9 })
    ∧ dec 0b1110_010_1_1_1_1_0_0001_0010_101000000101 = some (.strbImmPre .al true true 1 2 0xA05)
    ∧ dec 0b1110_010_0_0_1_0_0_0001_0010_101000000101 = some (.strbImmPost .al false 1 2 0xA05)
    ∧ dec 0b1110_011_1_1_1_0_0_0001_0010_01001_01_0_0101 = some (.strbRegPre .al true false 1 2 { rm := 5, kind := .lsr, amount := 9 })
    ∧ dec 0b1110_011_0_0_1_0_0_0001_0010_01001_01_0_0101 = some (.strbRegPost .al false 1 2 { rm := 5, kind := .lsr, amount := 9 }) := by decide

/-- `cond 100 P U S W L Rn list` (R135), the branches (R132, R136, R137) and the status instructions (R143, R144). -/
theorem test_decode_block_branch_status :
    dec 0b1110_100_1_0_1_0_1_0011_1000000000000110 = some (.ldm .al true false true false 3 0x8006)
    ∧ dec 0b1110_100_0_1_0_1_0_0011_1000000000000110 = some (.stm .al false true false true 3 0x8006)
    ∧ dec 0b0000_101_0_100000000000000000000001 = some (.b .eq 0x800001)
    ∧ dec 0b1110_101_1_100000000000000000000001 = some (.bl .al 0x800001)
    ∧ dec 0b1110_00010010_111111111111_0001_0110 = some (.bx .al 6)
    ∧ dec 0b1110_00010010_111111111111_0011_0110 = some (.blxReg .al 6)
    ∧ dec 0b1111_101_1_100000000000000000000001 = some (.blxImm true 0x800001)
    ∧ dec 0b1110_00010_1_001111_0110_000000000000 = some (.mrs .al true 6)
    ∧ dec 0b1110_00010_0_10_1001_1111_00000000_0110 = some (.msrReg .al false 9 6)
    ∧ dec 0b1110_00110_1_10_1001_1111_0010_00001111 = some (.msrImm .al true 9 { rot := 2, imm8 := 15 }) := by decide

/-- The coprocessor instructions (R138 to R140), SWI, BKPT and the undefined spaces (R141, R142, R146). -/
theorem test_decode_coprocessor_exception :
    dec 0b1110_1110_0010_1010_1100_0011_100_0_0011 = some (.cdp .al 2 10 12 3 4 3)
    ∧ dec 0b1110_110_1_1_0_0_1_0000_0100_0011_00000101 = some (.ldc .al true true false false 0 4 3 5)
    ∧ dec 0b1110_110_0_1_1_1_0_0000_0100_0011_00000101 = some (.stc .al false true true true 0 4 3 5)
    ∧ dec 0b1110_1110_011_0_0100_0000_0011_110_1_0101 = some (.mcr .al 3 4 0 3 6 5)
    ∧ dec 0b1110_1110_011_1_0100_0000_0011_110_1_0101 = some (.mrc .al 3 4 0 3 6 5)
    ∧ dec 0b1110_1111_000000000000000000000010 = some (.swi .al 2)
    ∧ dec 0b1110_00010010_000100100011_0111_0100 = some (.bkpt 0x1234)
    ∧ dec 0b1110_011_11111110000000001111_1_0000 = some (.undefMem .al 0xFE00F 0)
    ∧ dec 0b1110_00110_1_00_00000000000000000001 = some (.undefMsr .al true 1) := by decide

/-- Why a word is refused. -/
def decodeError (w : Word) : Option DecodeError :=
  match decodeWord w with
  | .ok _ => none
  | .error e => some e

/-- Part 2.13 of 95_test_vectors.md, and the other words R147 to R149 name: P = 0 with W = 1, a signed store, BKPT with a
condition, LDC with P = U = W = 0, and SWP with bits 11:8 set. -/
theorem test_decode_refuses :
    decodeError 0xE1A00091 = some .notInThisSpec ∧ decodeError 0xE3A10000 = some (.shouldBe .al)
    ∧ decodeError 0xF0000000 = some .conditionNever ∧ decodeError 0xE4B10004 = some .notInThisSpec
    ∧ decodeError 0xE1C100D0 = some .notInThisSpec ∧ decodeError 0x01200070 = some .notInThisSpec
    ∧ decodeError 0xEC004300 = some .notInThisSpec ∧ decodeError 0xE1020F91 = some .notInThisSpec
    ∧ decodeError 0xE131F002 = some (.shouldBe .al) ∧ decodeTableWord 16 0xE1A0 = some (.andShiftImm .eq false 0 14
        { rm := 0, kind := .lsr, amount := 3 }) := by decide

/-! ### States for the examples -/

/-- The state of the examples of 95_test_vectors.md: A = 0x40000100, Supervisor mode, CPSR[7:0] = 0xD3. -/
def start : State := { State.reset with pc := 0x40000100 }

/-- A state with other values in some registers of its mode. -/
def with_ (l : List (RegNum × Word)) (s : State) : State := l.foldl (fun s r => s.setReg r.1 r.2) s

/-- The memory image mem0: words 11223344, 55667788, 99AABBCC, DDEEFF00 at B = 0x40000000. -/
def mem0 : Memory :=
  [(0x40000000, 0x44), (0x40000001, 0x33), (0x40000002, 0x22), (0x40000003, 0x11), (0x40000004, 0x88),
   (0x40000005, 0x77), (0x40000006, 0x66), (0x40000007, 0x55), (0x40000008, 0xCC), (0x40000009, 0xBB),
   (0x4000000A, 0xAA), (0x4000000B, 0x99), (0x4000000D, 0xFF), (0x4000000E, 0xEE), (0x4000000F, 0xDD)]

/-- `start` with mem0. -/
def start0 : State := { start with mem := mem0 }

/-- The state after one step on word `w`, if the machine goes on. -/
def after (w : Nat) (s : State) : Option State :=
  match step (s.withFetchWord 32 w) with
  | .next t => some t
  | .fault _ => none
  | .refused _ => none

/-- The fault or refusal of one step on word `w`. -/
def stops (w : Nat) (s : State) : Option (Fault ⊕ Refusal) :=
  match step (s.withFetchWord 32 w) with
  | .next _ => none
  | .fault f => some (.inl f)
  | .refused r => some (.inr r)

/-- The flags as the vectors write them: NZCV as one number. -/
def nzcv (s : State) : BitVec 4 := s.cpsr.extractLsb' 28 4

/-- What register `r` and the flags are after `w`. -/
def gives (w : Nat) (r : RegNum) (s : State) : Option (Word × BitVec 4) := (after w s).map fun t => (t.reg r, nzcv t)

/-! ### Worked examples of 95_test_vectors.md -/

/-- Vector A1. -/
theorem test_add_overflow :
    gives 0xE0910002 0 (with_ [(1, 0x7FFFFFFF), (2, 1)] start) = some (0x80000000, 0b1001) := by decide

/-- Vector A21. -/
theorem test_add_keeps_flags :
    gives 0xE0810002 0 (with_ [(1, 0xFFFFFFFF), (2, 1)] { start with cpsr := 0x900000D3 }) = some (0, 0b1001) := by decide

/-- Vector A4. -/
theorem test_adc_carry_in :
    gives 0xE0B10002 0 (with_ [(1, 0xFFFFFFFF), (2, 0)] { start with cpsr := 0x200000D3 }) = some (0, 0b0110) := by decide

/-- Vector A8. -/
theorem test_sub_borrow :
    gives 0xE0510002 0 (with_ [(1, 0), (2, 1)] start) = some (0xFFFFFFFF, 0b1000) := by decide

/-- Vector A9. -/
theorem test_sub_overflow :
    gives 0xE0510002 0 (with_ [(1, 0x80000000), (2, 1)] start) = some (0x7FFFFFFF, 0b0011) := by decide

/-- Vector A10. -/
theorem test_sbc_borrow_in :
    gives 0xE0D10002 0 (with_ [(1, 5), (2, 3)] { start with cpsr := 0x000000D3 }) = some (1, 0b0010) := by decide

/-- Vector A15. -/
theorem test_rsb_overflow :
    gives 0xE2710000 0 (with_ [(1, 0x80000000)] start) = some (0x80000000, 0b1001) := by decide

/-- Vector A17. -/
theorem test_rsc_borrow_in :
    gives 0xE0F10002 0 (with_ [(1, 1), (2, 10)] { start with cpsr := 0x000000D3 }) = some (8, 0b0010) := by decide

/-- Vector A16. -/
theorem test_cmp_overflow :
    gives 0xE3510064 1 (with_ [(1, 0x80000000)] start) = some (0x80000000, 0b0011) := by decide

/-- Vector A19. -/
theorem test_cmn_zero :
    gives 0xE1710002 1 (with_ [(1, 1), (2, 0xFFFFFFFF)] start) = some (1, 0b0110) := by decide

/-- Vector S22. -/
theorem test_and_shifter_carry :
    gives 0xE0110082 0 (with_ [(1, 0xFFFFFFFF), (2, 0x80000000)] { start with cpsr := 0x100000D3 }) = some (0, 0b0111) := by decide

/-- Vector S23. -/
theorem test_mvn_zero :
    gives 0xE1F00001 0 (with_ [(1, 0xFFFFFFFF)] { start with cpsr := 0x300000D3 }) = some (0, 0b0111) := by decide

/-- Vector G1. -/
theorem test_tst_keeps_carry :
    gives 0xE1110002 1 (with_ [(1, 0xF0), (2, 0x0F)] { start with cpsr := 0x300000D3 }) = some (0xF0, 0b0111) := by decide

/-- Vector G4. -/
theorem test_teq_negative :
    gives 0xE1310002 1 (with_ [(1, 0x80000000), (2, 0)] { start with cpsr := 0x300000D3 }) = some (0x80000000, 0b1011) := by decide

/-- Vector G5. -/
theorem test_bic_negative :
    gives 0xE1D10002 0 (with_ [(1, 0xFFFFFFFF), (2, 0x7FFFFFFF)] { start with cpsr := 0x200000D3 }) = some (0x80000000, 0b1010) := by decide

/-- Vector G6. -/
theorem test_orr_zero :
    gives 0xE1910002 0 (with_ [(1, 0), (2, 0)] { start with cpsr := 0x000000D3 }) = some (0, 0b0100) := by decide

/-- Vector G7. -/
theorem test_eor_value :
    gives 0xE0310002 0 (with_ [(1, 0xFF00FF00), (2, 0x0FF00FF0)] { start with cpsr := 0x000000D3 }) = some (0xF0F0F0F0, 0b1000) := by decide

/-- Vector S6. -/
theorem test_mov_lsr_32 :
    gives 0xE1B00021 0 (with_ [(1, 0x80000001)] start) = some (0, 0b0110) := by decide

/-- Vector S17. -/
theorem test_mov_rrx :
    gives 0xE1B00061 0 (with_ [(1, 3)] { start with cpsr := 0x200000D3 }) = some (0x80000001, 0b1010) := by decide

/-- Vector S5. -/
theorem test_shift_lsl_by_33 :
    gives 0xE1B00211 0 (with_ [(1, 0x80000001), (2, 33)] { start with cpsr := 0x200000D3 }) = some (0, 0b0100) := by decide

/-- Vector S12. -/
theorem test_shift_asr_by_40 :
    gives 0xE1B00251 0 (with_ [(1, 0x7FFFFFFF), (2, 40)] { start with cpsr := 0x200000D3 }) = some (0, 0b0100) := by decide

/-- Vector S15. -/
theorem test_shift_ror_by_36 :
    gives 0xE1B00271 0 (with_ [(1, 0x80000001), (2, 36)] { start with cpsr := 0x200000D3 }) = some (0x18000000, 0b0000) := by decide

/-- Vector S3. -/
theorem test_shift_shift_by_256_is_none :
    gives 0xE1B00211 0 (with_ [(1, 0x80000001), (2, 0x100)] { start with cpsr := 0x200000D3 }) = some (0x80000001, 0b1010) := by decide

/-- Vectors P1, P8 and P11: R15 reads A + 8; MOVS PC,LR returns from an exception; in System mode it stops. -/
theorem test_pc_operand_and_return :
    gives 0xE1A0000F 0 start = some (0x40000108, 0)
    ∧ (after 0xE1B0F00E (with_ [(14, 0x8004)] { start with spsr := { start.spsr with svc := 0x60000010 } })).map
        (fun t => (t.pc, t.cpsr)) = some (0x8004, 0x60000010)
    ∧ stops 0xE1B0F00E (with_ [(14, 0x8004)] { start with cpsr := 0xDF }) = some (.inl .noSpsr) := by decide

/-- Vector X-M1, without S. -/
theorem test_mul_negative :
    (after 0xE0000291 (with_ [(1, 0xFFFFFFFF), (2, 2)] start)).map (fun t => (t.reg 0)) = some (0xFFFFFFFE) := by decide

/-- Vector X-M4, without S. -/
theorem test_mla_zero :
    (after 0xE0203291 (with_ [(1, 0xFFFFFFFF), (2, 1), (3, 1)] start)).map (fun t => (t.reg 0)) = some (0) := by decide

/-- Vector X-M5, without S. -/
theorem test_umull_full :
    (after 0xE0810392 (with_ [(2, 0xFFFFFFFF), (3, 0xFFFFFFFF)] start)).map (fun t => (t.reg 0, t.reg 1)) = some (1, 0xFFFFFFFE) := by decide

/-- Vector X-M9, without S. -/
theorem test_smull_mixed :
    (after 0xE0C10392 (with_ [(2, 0x80000000), (3, 0x7FFFFFFF)] start)).map (fun t => (t.reg 0, t.reg 1)) = some (0x80000000, 0xC0000000) := by decide

/-- Vector X-M10. -/
theorem test_umlal_wraps :
    (after 0xE0A10392 (with_ [(0, 0xFFFFFFFF), (1, 0xFFFFFFFF), (2, 1), (3, 1)] start)).map (fun t => (t.reg 0, t.reg 1)) = some (0, 0) := by decide

/-- Vector X-M12. -/
theorem test_smlal_carries :
    (after 0xE0E10392 (with_ [(0, 0xFFFFFFFF), (1, 0), (2, 1), (3, 1)] start)).map (fun t => (t.reg 0, t.reg 1)) = some (0, 1) := by decide

/-- Vectors X-M1, X-M2, X-M5 and X-M6: N and Z, whatever C and V become. -/
theorem test_multiply_flags : ∀ c v : Bool,
    multiplyFlags (0xFFFFFFFE : Word) c v = { n := true, z := false, c := c, v := v }
    ∧ multiplyFlags (0 : Word) c v = { n := false, z := true, c := c, v := v }
    ∧ multiplyFlags (0xFFFFFFFE00000001 : BitVec 64) c v = { n := true, z := false, c := c, v := v }
    ∧ multiplyFlags (0 : BitVec 64) c v = { n := false, z := true, c := c, v := v } := by decide

/-- Vector L4. -/
theorem test_ldr_shifted_writeback :
    (after 0xE7B10102 (with_ [(1, 0x40000000), (2, 2)] start0)).map (fun t => (t.reg 0, t.reg 1)) = some ((0x99AABBCC, 0x40000008)) := by decide

/-- Vector L6. -/
theorem test_ldr_post :
    (after 0xE4910004 (with_ [(1, 0x40000004)] start0)).map (fun t => (t.reg 0, t.reg 1)) = some ((0x55667788, 0x40000008)) := by decide

/-- Vector L7. -/
theorem test_ldrb_highest :
    (after 0xE5D10003 (with_ [(1, 0x40000000)] start0)).map (fun t => t.reg 0) = some (0x11) := by decide

/-- Vector L9. -/
theorem test_strb_low_byte :
    (after 0xE5C10001 (with_ [(0, 0xAABBCCDD), (1, 0x40000000)] start0)).map (fun t => t.wordAt 0x40000000) = some (0x1122DD44) := by decide

/-- Vector L10. -/
theorem test_str_pre_down :
    (after 0xE5210004 (with_ [(0, 0xCAFEBABE), (1, 0x40000008)] start0)).map (fun t => (t.wordAt 0x40000004, t.reg 1)) = some ((0xCAFEBABE, 0x40000004)) := by decide

/-- Vector L20. -/
theorem test_str_pc :
    (after 0xE580F000 (with_ [(0, 0x40000020)] start0)).map (fun t => t.wordAt 0x40000020) = some (0x4000010C) := by decide

/-- Vector L11. -/
theorem test_ldrh_post :
    (after 0xE0D100B2 (with_ [(1, 0x40000002)] start0)).map (fun t => (t.reg 0, t.reg 1)) = some ((0x1122, 0x40000004)) := by decide

/-- Vector L13. -/
theorem test_strh_register :
    (after 0xE18100B2 (with_ [(0, 0xAABBCCDD), (1, 0x40000000), (2, 6)] start0)).map (fun t => t.wordAt 0x40000004) = some (0xCCDD7788) := by decide

/-- Vector L16. -/
theorem test_ldrsb_negative :
    (after 0xE15100D1 (with_ [(1, 0x4000000C)] start0)).map (fun t => t.reg 0) = some (0xFFFFFF99) := by decide

/-- Vector L17. -/
theorem test_ldrsh_pre_down :
    (after 0xE17100F2 (with_ [(1, 0x4000000C)] start0)).map (fun t => (t.reg 0, t.reg 1)) = some ((0xFFFF99AA, 0x4000000A)) := by decide

/-- Vector W2. -/
theorem test_swp_word :
    (after 0xE1020091 (with_ [(1, 0xAAAA5555), (2, 0x40000000)] start0)).map (fun t => (t.reg 0, t.wordAt 0x40000000)) = some ((0x11223344, 0xAAAA5555)) := by decide

/-- Vector W3. -/
theorem test_swp_byte :
    (after 0xE1420091 (with_ [(1, 0xAABBCCDD), (2, 0x40000001)] start0)).map (fun t => (t.reg 0, t.wordAt 0x40000000)) = some ((0x33, 0x1122DD44)) := by decide

/-- Vector M4. -/
theorem test_ldm_decrement_before :
    (after 0xE9300006 (with_ [(0, 0x40000008)] start0)).map (fun t => (t.reg 1, t.reg 2, t.reg 0)) = some ((0x11223344, 0x55667788, 0x40000000)) := by decide

/-- Vector M2. -/
theorem test_ldm_increment_before :
    (after 0xE9900006 (with_ [(0, 0x40000004)] start0)).map (fun t => (t.reg 1, t.reg 2, t.reg 0)) = some ((0x99AABBCC, 0xDDEEFF00, 0x40000004)) := by decide

/-- Vector M7. -/
theorem test_stm_decrement_after :
    (after 0xE8200006 (with_ [(0, 0x40000020), (1, 0x111), (2, 0x222)] start0)).map (fun t => (t.wordAt 0x4000001C, t.wordAt 0x40000020, t.reg 0)) = some ((0x111, 0x222, 0x40000018)) := by decide

/-- Vector M18. -/
theorem test_stm_base_lowest :
    (after 0xE8A00003 (with_ [(0, 0x40000020), (1, 5)] start0)).map (fun t => (t.wordAt 0x40000020, t.wordAt 0x40000024, t.reg 0)) = some ((0x40000020, 5, 0x40000028)) := by decide

/-- Vectors M13 and M14: LDM with the PC and ^ returns from IRQ; STM with ^ stores the User bank. -/
theorem test_block_user_bank :
    (after 0xE8FD800F (with_ [(13, 0x40000000)]
        { start0 with
          cpsr := 0x92, spsr := { start.spsr with irq := 0x80000010 },
          mem := mem0 ++ [(0x40000011, 0x02), (0x40000013, 0x40)] })).map
        (fun t => (t.reg 3, t.pc, t.cpsr, t.regIn .irq 13))
      = some (0xDDEEFF00, 0x40000200, 0x80000010, 0x40000014)
    ∧ (after 0xE8C07F00 (with_ [(0, 0x40000040), (8, 7)] ({ start with cpsr := 0xD1 }.setRegIn .user 8 5))).map
        (fun t => t.wordAt 0x40000040) = some 5 := by decide

/-- Vectors L24 (under the policy this model takes), L25, L26, L27 and M21. -/
theorem test_transfer_edges :
    (after 0xE5912002 (with_ [(1, 0x40000000)] start0)).map (fun t => t.reg 2) = some 0x33441122
    ∧ stops 0xE1D100B1 (with_ [(1, 0x40000000)] start0) = some (.inl .misaligned)
    ∧ (after 0xE5910000 (with_ [(1, 0x50000000)] start)).map (fun t => (t.pc, t.reg 14, t.mode))
      = some (0x10, 0x40000108, .abort)
    ∧ stops 0xE5810000 (with_ [(1, 0x1000)] start) = some (.inl .flashStore)
    ∧ (after 0xE8900006 (with_ [(0, 0x4000FFFC), (1, 1), (2, 2)] start)).map (fun t => (t.reg 1, t.reg 2, t.pc))
      = some (0, 2, 0x10) := by decide

/-- Vectors J6, J7, J9, J11, J12 and J13. -/
theorem test_branches :
    (after 0xEB000002 { start with pc := 0x1000 }).map (fun t => (t.reg 14, t.pc)) = some (0x1004, 0x1010)
    ∧ (after 0xEA800000 start).map (fun t => t.pc) = some 0x3E000108
    ∧ (after 0xE12FFF10 (with_ [(0, 0x2001)] start)).map (fun t => (t.pc, t.thumb)) = some (0x2000, true)
    ∧ stops 0xE12FFF10 (with_ [(0, 0x40000202)] start) = some (.inl .misalignedPc)
    ∧ (after 0xFB000002 { start with pc := 0x1000 }).map (fun t => (t.reg 14, t.pc, t.thumb)) = some (0x1004, 0x1012, true)
    ∧ (after 0xE12FFF30 (with_ [(0, 0x2001)] start)).map (fun t => (t.reg 14, t.pc, t.thumb))
      = some (0x40000104, 0x2000, true) := by decide

/-- Vectors Q1, Q2, Q5, Q6, Q7, Q8, Q9 and Q10. -/
theorem test_status :
    gives 0xE10F0000 0 { start with cpsr := 0x600000D3 } = some (0x600000D3, 6)
    ∧ gives 0xE14F0000 0 { start with spsr := { start.spsr with svc := 0x80000010 } } = some (0x80000010, 0)
    ∧ (after 0xE328F20F start).map (fun t => t.cpsr) = some 0xF00000D3
    ∧ (after 0xE129F000 (with_ [(0, 0xF00000DF)] { start with cpsr := 0x10 })).map (fun t => t.cpsr) = some 0xF0000010
    ∧ (after 0xE121F000 (with_ [(0, 0xFFFFFF1F)] { start with cpsr := 0x400000D3 })).map (fun t => t.cpsr)
      = some 0x4000001F
    ∧ (after 0xE16FF000 (with_ [(0, 0x60000010)] { start with cpsr := 0x92 })).map (fun t => t.spsr.irq)
      = some 0x60000010
    ∧ stops 0xE121F000 start = some (.inl .illegalMode)
    ∧ stops 0xE121F000 (with_ [(0, 0x33)] start) = some (.inl .msrChangesT) := by decide

/-- What an exception left: its R14, its SPSR, the CPSR and the PC. -/
def entry (m : Mode) (t : State) : Word × Option Word × Word × Word := (t.regIn m 14, t.spsr.get m, t.cpsr, t.pc)

/-- Vectors X1, X2 and X3. -/
theorem test_exceptions :
    (after 0xED904300 { start with cpsr := 0x20000010 }).map (entry .undefined)
      = some (0x40000104, some 0x20000010, 0x2000009B, 4)
    ∧ (after 0xE7F000F0 start).map (entry .undefined) = some (0x40000104, some 0xD3, 0xDB, 4)
    ∧ (after 0x07F000F0 start).map (fun t => (t.pc, t.cpsr)) = some (0x40000104, 0xD3) := by decide

/-- Vectors X4, X12 and X13, and the pseudo-instruction NOP. -/
theorem test_exceptions_calls :
    (after 0xEF123456 { start with pc := 0x8000, cpsr := 0x60000010 }).map (entry .supervisor)
      = some (0x8004, some 0x60000010, 0x60000093, 8)
    ∧ (after 0xE1212374 start).map (entry .abort) = some (0x40000104, some 0xD3, 0xD7, 0xC)
    ∧ (after 0xEE010F10 start).map (entry .undefined) = some (0x40000104, some 0xD3, 0xDB, 4)
    ∧ (after 0xE1A00000 start).map (fun t => (t.pc, t.cpsr)) = some (0x40000104, 0xD3) := by decide

/-- The CDP, STC, MRC examples E72, E74 and E76 and the other undefined space: all Undefined. -/
theorem test_exceptions_more :
    ([0xEE2AC383, 0xED804300, 0xEE7403D5, 0xE3000000].all fun w =>
      (after w start).map (entry .undefined) == some (0x40000104, some 0xD3, 0xDB, 4)) = true := by decide

/-- One step from a state as it stands. -/
def stepped (s : State) : Option State :=
  match step s with
  | .next t => some t
  | .fault _ => none
  | .refused _ => none

/-- `start` at pc = 0x40000200 in User mode with channel `c` requested by software, as IRQ or as FIQ. -/
def requested (c : Nat) (select : Word) : State :=
  { start with
    pc := 0x40000200, cpsr := 0x80000010,
    vic := { start.vic with softInt := 1 <<< c, intEnable := 1 <<< c, intSelect := select } }

/-- Vectors X6, X7 and X8. -/
theorem test_boundary_exceptions :
    (stepped { start with pc := 0xE0000000, cpsr := 0x600000D3 }).map (entry .abort)
      = some (0xE0000004, some 0x600000D3, 0x600000D7, 0xC)
    ∧ (stepped (requested 1 0)).map (entry .irq) = some (0x40000204, some 0x80000010, 0x80000092, 0x18)
    ∧ (stepped (requested 4 0x10)).map (entry .fiq) = some (0x40000204, some 0x80000010, 0x800000D1, 0x1C) := by decide

/-- What a word store then a word load give. -/
def readBack (wa ra v : Word) (s : State) : Option Word :=
  match memWrite wa .word v s with
  | .ok _ t =>
    match memRead ra .word t with
    | .ok x _ => some x
    | .abort _ => none
    | .stop _ => none
  | .abort _ => none
  | .stop _ => none

/-- Sequences S2, S4, S6 and S8 of part 4 (registers whose bits are all described). -/
theorem test_registers :
    readBack 0xFFFFF138 0xFFFFF138 0x1234 start = some 0x1234
    ∧ readBack 0xFFFFF010 0xFFFFF010 0x4000 start = some 0x4000
    ∧ readBack 0xE01FC1A8 0xE01FC1A8 0x55555555 start = some 0x55515555
    ∧ readBack 0xE01FC1AC 0xE01FC1AC 0xAAAAAAAA start = some 0x22AAA8AA
    ∧ readBack 0xE01FC040 0 2 start0 = some 0x11223344
    ∧ readBack 0xE01FC0C0 0 3 start = none := by decide
/-- Example E80, and NOP, ADRL and the three expansions of LDR Rd,=value (R381 to R384). -/
theorem test_pseudo_expansions :
    encode (.adr .al 4 false { rot := 0, imm8 := 12 }) = [0xE24F400C] ∧ encode .nop = [0xE1A00000]
    ∧ encode (.adrl .al 4 true { rot := 0, imm8 := 12 } { rot := 12, imm8 := 1 }) = [0xE28F400C, 0xE2844C01]
    ∧ encode (.ldrPseudo .al 0 0x40000000 true 8) = [0xE3A00101]
    ∧ encode (.ldrPseudo .al 0 0xFFFFFFFE true 8) = [0xE3E00001]
    ∧ encode (.ldrPseudo .al 0 0x12345 true 8) = [0xE59F0008] := by decide

/-! ### What the statements assume, met by a state and operands

One theorem for each statement with hypotheses: for every clause a state and operands that meet all its hypotheses. -/

/-- `Ready`, as a test. -/
def readyB (i : Instr) (s : State) : Bool := i.wellFormed && i.cond?.all s.passes

theorem ready_of {i : Instr} {s : State} (h : readyB i s = true) : Ready i s := by
  unfold readyB at h
  rw [Bool.and_eq_true] at h
  refine ⟨h.1, fun c hc => ?_⟩
  have := h.2
  rw [hc] at this
  exact this

/-- Every instruction of a list is ready in `s`. -/
theorem all_ready {l : List Instr} {s : State} (h : l.all (readyB · s) = true) : ∀ i ∈ l, Ready i s :=
  fun i hi => ready_of (List.all_eq_true.mp h i hi)

/-- The words of a block lie where `P` holds. -/
theorem block_of {map : BitVec 2} {start : Word} {n : Nat} {P : Nat → Prop} [DecidablePred P]
    (h : ((List.range n).all fun j => (remap map (start + BitVec.ofNat 32 (4 * j))).any fun q => decide (P q)) = true) :
    ∀ j, j < n → ∃ q, remap map (start + BitVec.ofNat 32 (4 * j)) = some q ∧ P q := by
  intro j hj
  have := List.all_eq_true.mp h j (List.mem_range.mpr hj)
  rw [Option.any_eq_true] at this
  obtain ⟨q, hq, hp⟩ := this
  exact ⟨q, hq, of_decide_eq_true hp⟩

/-- Whether a step goes on. -/
def goesOn (s : State) : Bool :=
  match step s with
  | .next _ => true
  | .fault _ => false
  | .refused _ => false

theorem next_of {s : State} (h : goesOn s = true) : ∃ t, step s = .next t := by
  unfold goesOn at h
  split at h
  · exact ⟨_, by assumption⟩
  · cases h
  · cases h

/-- The state in which the next instruction runs, if one does. -/
def running (s : State) : Option State :=
  match boundary s with
  | .done _ => none
  | .run t => some t

theorem boundary_of {s : State} (h : (running s).isSome = true) : boundary s = .run ((running s).getD s) := by
  unfold running at h ⊢
  split at h
  · cases h
  · rename_i t ht
    rw [ht]
    rfl

/-- The value an access gives, and whether it aborts or stops the machine. -/
def given {α : Type} (x : Access α) : Option α :=
  match x with
  | .ok v _ => some v
  | .abort _ => none
  | .stop _ => none

def aborted {α : Type} (x : Access α) : Bool :=
  match x with
  | .ok _ _ => false
  | .abort _ => true
  | .stop _ => false

def stopped {α : Type} (x : Access α) : Bool :=
  match x with
  | .ok _ _ => false
  | .abort _ => false
  | .stop _ => true

theorem given_ok {α : Type} {x : Access α} (h : (given x).isSome = true) : ∃ v dev, x = .ok v dev := by
  cases x with
  | ok v dev => exact ⟨v, dev, rfl⟩
  | abort _ => cases h
  | stop _ => cases h

theorem aborted_at {α : Type} {x : Access α} (h : aborted x = true) : ∃ dev, x = .abort dev := by
  cases x with
  | ok _ _ => cases h
  | abort dev => exact ⟨dev, rfl⟩
  | stop _ => cases h

theorem stopped_with {α : Type} {x : Access α} (h : stopped x = true) : ∃ f, x = .stop f := by
  cases x with
  | ok _ _ => cases h
  | abort _ => cases h
  | stop f => exact ⟨f, rfl⟩

/-- The number of words of an LDM or STM and the first address, as the statements write them (R221). -/
def wordsOf (list : BitVec 16) : Nat := ((List.range 16).filter fun k => list.getLsbD k).length

def firstWord (p u : Bool) (base : Word) (list : BitVec 16) : Word :=
  let bytes : Word := BitVec.ofNat 32 (4 * wordsOf list)
  if u then (if p then base + 4 else base) else (if p then base - bytes else base - bytes + 4)

/-- `start` at the last address from which the machine can advance, with addresses in some registers and SPSRs. -/
def last : State :=
  with_ [(1, 0x4000FFFC), (2, 0x40000202), (3, 0x7FFFC), (5, 8), (13, 0x40001000), (14, 0x8004)]
    { start with pc := 0xFFFFFFF8, spsr := { start.spsr with svc := 0x60000010, irq := 0x80000030 } }

/-- `last` in System mode, which has no SPSR, in User mode, in Abort mode (whose SPSR holds no mode), and at the end. -/
def lastSys : State := { last with cpsr := 0xDF }
def lastUser : State := { last with cpsr := 0x10 }
def lastAbt : State := { last with cpsr := 0xD7 }
/-- `last` in IRQ mode, whose SPSR has T = 1. -/
def lastIrq : State := { last with cpsr := 0xD2 }
def ending : State := { last with pc := 0xFFFFFFFC }

/-- `last` with device addresses in R1 to R8: MAMCR, a halfword of it, VICIntSelect, VICSoftInt (which reads 1), EMCControl
(the EMC off), VICProtection, the gap below the VIC, and the last byte of the address space. -/
def lastDev : State :=
  let s := with_ [(1, 0xE01FC000), (2, 0xE01FC002), (3, 0xFFFFF00C), (4, 0xFFFFF018), (5, 0xFFE08000), (6, 0xFFFFF020),
    (7, 0xFFFFEFFC), (8, 0xFFFFFFFF)] last
  { s with sys := { s.sys with pconp := 0 }, vic := { s.vic with softInt := 1 } }
def lastDevUser : State := { lastDev with cpsr := 0x10 }

/-- An instruction of each operand form of data processing. -/
def dataForms : List Instr :=
  let op : RotImm := { rot := 15, imm8 := 0xFF }
  let si : ShiftImm := { rm := 15, kind := .ror, amount := 0 }
  let sr : ShiftReg := { rm := 1, kind := .asr, rs := 14 }
  [.andImm .al true 15 15 op, .andShiftImm .al true 15 15 si, .andShiftReg .al true 14 0 sr,
   .eorImm .al true 15 15 op, .eorShiftImm .al true 15 15 si, .eorShiftReg .al true 14 0 sr,
   .subImm .al true 15 15 op, .subShiftImm .al true 15 15 si, .subShiftReg .al true 14 0 sr,
   .rsbImm .al true 15 15 op, .rsbShiftImm .al true 15 15 si, .rsbShiftReg .al true 14 0 sr,
   .addImm .al true 15 15 op, .addShiftImm .al true 15 15 si, .addShiftReg .al true 14 0 sr,
   .adcImm .al true 15 15 op, .adcShiftImm .al true 15 15 si, .adcShiftReg .al true 14 0 sr] ++
  [.sbcImm .al true 15 15 op, .sbcShiftImm .al true 15 15 si, .sbcShiftReg .al true 14 0 sr,
   .rscImm .al true 15 15 op, .rscShiftImm .al true 15 15 si, .rscShiftReg .al true 14 0 sr,
   .orrImm .al true 15 15 op, .orrShiftImm .al true 15 15 si, .orrShiftReg .al true 14 0 sr,
   .bicImm .al true 15 15 op, .bicShiftImm .al true 15 15 si, .bicShiftReg .al true 14 0 sr,
   .movImm .al true 15 op, .movShiftImm .al true 15 si, .movShiftReg .al true 0 sr,
   .mvnImm .al true 15 op, .mvnShiftImm .al true 15 si, .mvnShiftReg .al true 0 sr]

/-- An instruction of each compare form. -/
def compareForms : List Instr :=
  let op : RotImm := { rot := 15, imm8 := 0xFF }
  let si : ShiftImm := { rm := 15, kind := .ror, amount := 0 }
  let sr : ShiftReg := { rm := 1, kind := .asr, rs := 14 }
  [.tstImm .al 15 op, .tstShiftImm .al 15 si, .tstShiftReg .al 14 sr,
   .teqImm .al 15 op, .teqShiftImm .al 15 si, .teqShiftReg .al 14 sr,
   .cmpImm .al 15 op, .cmpShiftImm .al 15 si, .cmpShiftReg .al 14 sr,
   .cmnImm .al 15 op, .cmnShiftImm .al 15 si, .cmnShiftReg .al 14 sr]

/-- The multiplies; operands at the edges of what R291 allows. -/
def multiplyForms : List Instr :=
  [.mul .al true 14 14 0, .mla .al true 14 14 14 0, .umull .al true 14 1 14 0, .umlal .al true 14 1 14 0,
   .smull .al true 14 1 14 0, .smlal .al true 14 1 14 0, .mul .al false 0 1 1, .mla .al false 0 1 1 1,
   .umull .al false 0 1 0 2, .umlal .al false 0 1 0 2, .smull .al false 0 1 0 2, .smlal .al false 0 1 0 2]

/-- The swaps, the status and the branch instructions. -/
def otherForms : List Instr :=
  [.swp .al 1 0 0, .swpb .al 14 0 0, .mrs .al false 14, .mrs .al true 0, .msrReg .al true 15 14, .msrReg .al false 8 0,
   .msrImm .al true 15 { rot := 15, imm8 := 0xFF }, .b .al 0x800000, .bl .al 0x7FFFFF, .bx .al 15, .blxReg .al 14,
   .blxImm true 0xFFFFFF]

/-- An instruction of each form of single transfer, with write-back and with R15 where the form has them. -/
def transferForms : List Instr :=
  let off : ShiftImm := { rm := 14, kind := .asr, amount := 0 }
  [.ldrImmPre .al true false 15 15 0xFFF, .ldrImmPost .al false 1 15 0xFFF, .ldrRegPre .al true true 1 15 off,
   .ldrRegPost .al true 1 15 off, .strImmPre .al true false 15 15 0xFFF, .strImmPost .al false 1 15 0xFFF,
   .strRegPre .al true true 1 15 off, .strRegPost .al true 1 15 off, .ldrbImmPre .al true false 15 14 0xFFF,
   .ldrbImmPost .al false 1 14 0xFFF, .ldrbRegPre .al true true 1 14 off, .ldrbRegPost .al true 1 14 off,
   .strbImmPre .al true false 15 14 0xFFF, .strbImmPost .al false 1 14 0xFFF, .strbRegPre .al true true 1 14 off,
   .strbRegPost .al true 1 14 off] ++
  [.ldrhImmPre .al true false 15 14 0xFF, .ldrhImmPost .al false 1 14 0xFF, .ldrhRegPre .al true true 1 14 14,
   .ldrhRegPost .al true 1 14 14, .strhImmPre .al true false 15 14 0xFF, .strhImmPost .al false 1 14 0xFF,
   .strhRegPre .al true true 1 14 14, .strhRegPost .al true 1 14 14, .ldrsbImmPre .al true false 15 14 0xFF,
   .ldrsbImmPost .al false 1 14 0xFF, .ldrsbRegPre .al true true 1 14 14, .ldrsbRegPost .al true 1 14 14,
   .ldrshImmPre .al true false 15 14 0xFF, .ldrshImmPost .al false 1 14 0xFF, .ldrshRegPre .al true true 1 14 14,
   .ldrshRegPost .al true 1 14 14, .ldm .al true true true false 14 0xFFFF, .stm .al true false true false 14 0xFFFF]

/-- The coprocessor and exception instructions and the undefined spaces. -/
def exceptionForms : List Instr :=
  [.cdp .al 15 15 15 15 7 15, .ldc .al false true true false 15 15 15 0xFF, .stc .al true false false false 15 15 15 0,
   .mcr .al 7 15 15 15 7 15, .mrc .al 7 15 15 15 7 15, .swi .al 0xFFFFFF, .bkpt 0xFFFF, .undefMem .al 0xFFFFF 15,
   .undefMsr .al true 0xFFFFF]

/-- For RoundTripDataProcessing, RoundTripMultiplyStatusBranch, RoundTripTransfers, RoundTripCoprocessorAndExceptions. -/
theorem test_witness_RoundTrips :
    (dataForms ++ compareForms ++ multiplyForms ++ otherForms ++ transferForms ++ exceptionForms).all Instr.wellFormed
      = true := by decide

theorem test_witness_DecodingIsInjective :
    ∃ i, decodeWord 0xE1A0F00E = .ok i ∧ ∃ j, decodeWord 0xFFFFFFFF = .ok j ∨ decodeWord 0xFBFFFFFF = .ok j :=
  ⟨_, rfl, _, .inr rfl⟩

theorem test_witness_StepKeepsLegality :
    ∃ s t, s.legal = true ∧ s.reservedClear = true ∧ s.pendingInSram = true ∧ s.mode = .supervisor ∧ step s = .next t :=
  (next_of (s := (with_ [(13, 0x40001000)] start).withFetchWord 32 0xE58D0000) (by decide)).elim fun t h =>
    ⟨_, t, by decide, by decide, by decide, by decide, h⟩

/-- The premises of StepKeepsReservedBitsClear are among those of StepKeepsLegality's witness. -/
theorem test_witness_StepKeepsReservedBitsClear : ∃ s t, s.reservedClear = true ∧ step s = .next t :=
  (next_of (s := (with_ [(13, 0x40001000)] start).withFetchWord 32 0xE58D0000) (by decide)).elim fun t h => ⟨_, t, by decide, h⟩

/-- A step that stays in User mode, and one that leaves it. -/
theorem test_witness_UserModeIsConfined :
    (∃ s t, s.modeLegal = true ∧ s.mode = .user ∧ step s = .next t ∧ t.mode = .user)
    ∧ ∃ s t, s.modeLegal = true ∧ s.mode = .user ∧ step s = .next t ∧ t.mode ≠ .user := by
  have go : ∀ (s : State) (m : Mode), (stepped s).map State.mode = some m → ∃ t, step s = .next t ∧ t.mode = m := by
    intro s m h
    unfold stepped at h
    split at h
    · exact ⟨_, by assumption, Option.some.inj h⟩
    · cases h
    · cases h
  obtain ⟨t, h, hm⟩ := go ({ start with cpsr := 0x10 }.withFetchWord 32 0xE1A00000) .user (by decide)
  obtain ⟨u, h', hu⟩ := go ({ start with cpsr := 0x10 }.withFetchWord 32 0xEF000000) .supervisor (by decide)
  exact ⟨⟨_, t, by decide, by decide, h, hm⟩, _, u, by decide, by decide, h', by rw [hu]; decide⟩

theorem test_witness_FlashAndBootAreNeverWritten :
    (∃ s t, s.pendingInSram = true ∧ step s = .next t) ∧ regionOf 0 = .flash ∧ regionOf 0x7FFFF = .flash
    ∧ regionOf 0x7FFFE000 = .boot ∧ regionOf 0x7FFFFFFF = .boot ∧ ¬ plainRam 0x3FFFFFFF ∧ ¬ plainRam 0x40010000 :=
  ⟨(next_of (s := (with_ [(13, 0x40001000)] start).withFetchWord 32 0xE58D0000) (by decide)).elim fun t h => ⟨_, t, by decide, h⟩,
    by decide⟩

/-- An instruction that names no banked register, and one that does, after a User-bank LDM; at the last Flash word. -/
theorem test_witness_StepRunsTheDecodedInstruction :
    let s : Word → State := fun w => { start with pc := 0x7FFFC, userBankLdm := true }.withFetchWord 32 w.toNat
    let run : Word → State := fun w => (running (s w)).getD (s w)
    (boundary (s 0xE1A00001) = .run (run 0xE1A00001) ∧ (run 0xE1A00001).thumb = false
      ∧ remap (run 0xE1A00001).sys.memmap (run 0xE1A00001).pc = some 0x7FFFC ∧ plainMemory 0x7FFFC ∧ 0x7FFFC % 4 = 0
      ∧ decodeWord ((run 0xE1A00001).wordAt 0x7FFFC) = .ok (.movShiftImm .al false 0 { rm := 1, kind := .lsl, amount := 0 })
      ∧ bankHazard (.movShiftImm .al false 0 { rm := 1, kind := .lsl, amount := 0 }) (run 0xE1A00001) = false)
    ∧ boundary (s 0xE1A0000D) = .run (run 0xE1A0000D)
      ∧ decodeWord ((run 0xE1A0000D).wordAt 0x7FFFC) = .ok (.movShiftImm .al false 0 { rm := 13, kind := .lsl, amount := 0 })
      ∧ bankHazard (.movShiftImm .al false 0 { rm := 13, kind := .lsl, amount := 0 }) (run 0xE1A0000D) = true :=
  ⟨⟨boundary_of (by decide), by decide, by decide, by decide, by decide, rfl, by decide⟩, boundary_of (by decide), rfl,
    by decide⟩

/-- Thumb state; a fetch just past the Flash and from the first peripheral. -/
theorem test_witness_FetchOutsideMemoryAborts :
    let s : Word → Word → State := fun pc psr => { start with pc := pc, cpsr := psr }
    let run : Word → Word → State := fun pc psr => (running (s pc psr)).getD (s pc psr)
    (boundary (s 0x40000100 0xF3) = .run (run 0x40000100 0xF3) ∧ (run 0x40000100 0xF3).thumb = true)
    ∧ (boundary (s 0x80000 0xD3) = .run (run 0x80000 0xD3) ∧ (run 0x80000 0xD3).thumb = false
      ∧ remap (run 0x80000 0xD3).sys.memmap (run 0x80000 0xD3).pc = some 0x80000 ∧ ¬ plainMemory 0x80000)
    ∧ boundary (s 0xE0000000 0xD3) = .run (run 0xE0000000 0xD3)
      ∧ remap (run 0xE0000000 0xD3).sys.memmap (run 0xE0000000 0xD3).pc = some 0xE0000000 ∧ ¬ plainMemory 0xE0000000 :=
  ⟨⟨boundary_of (by decide), by decide⟩, ⟨boundary_of (by decide), by decide⟩, boundary_of (by decide), by decide⟩

theorem test_witness_FailedConditionOnlyAdvances :
    let i : Instr := .swi .eq 0
    i.isPseudo = false ∧ i.cond? = some .eq ∧ last.passes .eq = false ∧ last.pc ≠ 0xFFFFFFFC
    ∧ ending.passes .eq = false ∧ ending.pc = 0xFFFFFFFC := by decide

/-- A refused form; the boundary of the base-in-list clauses of LDM and STM, on both sides. -/
theorem test_witness_RestrictedOperandsAreRefused :
    Instr.cond? (.mul .al false 0 1 0) = some .al ∧ last.passes .al = true
    ∧ Instr.illFormed (.mul .al false 0 1 0) = some .multiplySameRegister
    ∧ (Instr.illFormed (.stm .al false true false true 14 0x4000) = none
      ∧ Instr.illFormed (.stm .al false true false true 14 0x6000) = some .storeBaseNotLowest
      ∧ Instr.illFormed (.ldm .al false true false true 14 0x4000) = some .loadBaseInList
      ∧ Instr.illFormed (.ldm .al false true true true 13 0x8000) = none) := by decide

theorem test_witness_ShiftsByAnyAmount : (0 : Nat) < 1 ∧ (31 : Nat) < 32 := by decide

theorem test_witness_RotatedImmediateAndRrx :
    (31 : Nat) < 32 ∧ (30 : Nat) < 31 ∧ ((14 : RegNum) ≠ 15 ∧ (0 : RegNum) ≠ 15) := by decide
/-- For LogicalOperations: each clause of `Computes`. -/
theorem test_witness_LogicalOperations :
    ((∀ i ∈ dataForms, Ready i last) ∧ Ready (.orrImm .al true 2 14 { rot := 0, imm8 := 0 }) last
      ∧ (14 : RegNum) ≠ 15 ∧ last.pc ≠ 0xFFFFFFFC)
    ∧ (Ready (.orrImm .al false 14 15 { rot := 0, imm8 := 0 }) last
      ∧ (last.readReg 14 ||| (rotImmShifted { rot := 0, imm8 := 0 } last.flags.c).value).extractLsb' 0 2 = 0)
    ∧ (Ready (.orrImm .al false 2 15 { rot := 0, imm8 := 0 }) last
      ∧ (last.readReg 2 ||| (rotImmShifted { rot := 0, imm8 := 0 } last.flags.c).value).extractLsb' 0 2 ≠ 0)
    ∧ (Ready (.orrImm .al true 14 15 { rot := 0, imm8 := 0 }) last ∧ last.currentSpsr = some 0x60000010
      ∧ (modeOf 0x60000010).isSome = true ∧ alignedFor 0x60000010 (last.readReg 14 ||| (rotImmShifted { rot := 0, imm8 := 0 } last.flags.c).value) = true)
    ∧ (Ready (.orrImm .al true 14 15 { rot := 0, imm8 := 0 }) lastAbt ∧ lastAbt.currentSpsr = some 0 ∧ modeOf 0 = none)
    ∧ (Ready (.orrImm .al true 2 15 { rot := 0, imm8 := 0 }) last ∧ last.currentSpsr = some 0x60000010
      ∧ (modeOf 0x60000010).isSome = true ∧ (0x60000010 : Word).getLsbD 5 = false
      ∧ (last.readReg 2 ||| (rotImmShifted { rot := 0, imm8 := 0 } last.flags.c).value).extractLsb' 0 2 ≠ 0)
    ∧ (Ready (.orrImm .al true 14 15 { rot := 0, imm8 := 1 }) lastIrq ∧ lastIrq.currentSpsr = some 0x80000030
      ∧ (modeOf 0x80000030).isSome = true ∧ (0x80000030 : Word).getLsbD 5 = true
      ∧ (lastIrq.readReg 14 ||| (rotImmShifted { rot := 0, imm8 := 1 } lastIrq.flags.c).value).getLsbD 0 = true)
    ∧ Ready (.orrImm .al true 14 15 { rot := 0, imm8 := 0 }) lastSys ∧ lastSys.currentSpsr = none :=
  ⟨⟨all_ready (by decide), ready_of (by decide), by decide⟩,
    ⟨ready_of (by decide), by decide⟩,
    ⟨ready_of (by decide), by decide⟩,
    ⟨ready_of (by decide), by decide⟩,
    ⟨ready_of (by decide), by decide⟩,
    ⟨ready_of (by decide), by decide⟩,
    ⟨ready_of (by decide), by decide⟩,
    ⟨ready_of (by decide), by decide⟩⟩

/-- For AdditionOperations: each clause of `Computes`. -/
theorem test_witness_AdditionOperations :
    ((∀ i ∈ dataForms, Ready i last) ∧ Ready (.addImm .al true 2 14 { rot := 0, imm8 := 0 }) last
      ∧ (14 : RegNum) ≠ 15 ∧ last.pc ≠ 0xFFFFFFFC)
    ∧ (Ready (.addImm .al false 14 15 { rot := 0, imm8 := 0 }) last
      ∧ (last.readReg 14 + (rotImmShifted { rot := 0, imm8 := 0 } last.flags.c).value).extractLsb' 0 2 = 0)
    ∧ (Ready (.addImm .al false 2 15 { rot := 0, imm8 := 0 }) last
      ∧ (last.readReg 2 + (rotImmShifted { rot := 0, imm8 := 0 } last.flags.c).value).extractLsb' 0 2 ≠ 0)
    ∧ (Ready (.addImm .al true 14 15 { rot := 0, imm8 := 0 }) last ∧ last.currentSpsr = some 0x60000010
      ∧ (modeOf 0x60000010).isSome = true ∧ alignedFor 0x60000010 (last.readReg 14 + (rotImmShifted { rot := 0, imm8 := 0 } last.flags.c).value) = true)
    ∧ (Ready (.addImm .al true 14 15 { rot := 0, imm8 := 0 }) lastAbt ∧ lastAbt.currentSpsr = some 0 ∧ modeOf 0 = none)
    ∧ (Ready (.addImm .al true 2 15 { rot := 0, imm8 := 0 }) last ∧ last.currentSpsr = some 0x60000010
      ∧ (modeOf 0x60000010).isSome = true ∧ (0x60000010 : Word).getLsbD 5 = false
      ∧ (last.readReg 2 + (rotImmShifted { rot := 0, imm8 := 0 } last.flags.c).value).extractLsb' 0 2 ≠ 0)
    ∧ (Ready (.addImm .al true 14 15 { rot := 0, imm8 := 1 }) lastIrq ∧ lastIrq.currentSpsr = some 0x80000030
      ∧ (modeOf 0x80000030).isSome = true ∧ (0x80000030 : Word).getLsbD 5 = true
      ∧ (lastIrq.readReg 14 + (rotImmShifted { rot := 0, imm8 := 1 } lastIrq.flags.c).value).getLsbD 0 = true)
    ∧ Ready (.addImm .al true 14 15 { rot := 0, imm8 := 0 }) lastSys ∧ lastSys.currentSpsr = none :=
  ⟨⟨all_ready (by decide), ready_of (by decide), by decide⟩,
    ⟨ready_of (by decide), by decide⟩,
    ⟨ready_of (by decide), by decide⟩,
    ⟨ready_of (by decide), by decide⟩,
    ⟨ready_of (by decide), by decide⟩,
    ⟨ready_of (by decide), by decide⟩,
    ⟨ready_of (by decide), by decide⟩,
    ⟨ready_of (by decide), by decide⟩⟩

/-- For SubtractionOperations: each clause of `Computes`. -/
theorem test_witness_SubtractionOperations :
    ((∀ i ∈ dataForms, Ready i last) ∧ Ready (.subImm .al true 2 14 { rot := 0, imm8 := 0 }) last
      ∧ (14 : RegNum) ≠ 15 ∧ last.pc ≠ 0xFFFFFFFC)
    ∧ (Ready (.subImm .al false 14 15 { rot := 0, imm8 := 0 }) last
      ∧ (last.readReg 14 - (rotImmShifted { rot := 0, imm8 := 0 } last.flags.c).value).extractLsb' 0 2 = 0)
    ∧ (Ready (.subImm .al false 2 15 { rot := 0, imm8 := 0 }) last
      ∧ (last.readReg 2 - (rotImmShifted { rot := 0, imm8 := 0 } last.flags.c).value).extractLsb' 0 2 ≠ 0)
    ∧ (Ready (.subImm .al true 14 15 { rot := 0, imm8 := 0 }) last ∧ last.currentSpsr = some 0x60000010
      ∧ (modeOf 0x60000010).isSome = true ∧ alignedFor 0x60000010 (last.readReg 14 - (rotImmShifted { rot := 0, imm8 := 0 } last.flags.c).value) = true)
    ∧ (Ready (.subImm .al true 14 15 { rot := 0, imm8 := 0 }) lastAbt ∧ lastAbt.currentSpsr = some 0 ∧ modeOf 0 = none)
    ∧ (Ready (.subImm .al true 2 15 { rot := 0, imm8 := 0 }) last ∧ last.currentSpsr = some 0x60000010
      ∧ (modeOf 0x60000010).isSome = true ∧ (0x60000010 : Word).getLsbD 5 = false
      ∧ (last.readReg 2 - (rotImmShifted { rot := 0, imm8 := 0 } last.flags.c).value).extractLsb' 0 2 ≠ 0)
    ∧ (Ready (.subImm .al true 14 15 { rot := 0, imm8 := 1 }) lastIrq ∧ lastIrq.currentSpsr = some 0x80000030
      ∧ (modeOf 0x80000030).isSome = true ∧ (0x80000030 : Word).getLsbD 5 = true
      ∧ (lastIrq.readReg 14 - (rotImmShifted { rot := 0, imm8 := 1 } lastIrq.flags.c).value).getLsbD 0 = true)
    ∧ Ready (.subImm .al true 14 15 { rot := 0, imm8 := 0 }) lastSys ∧ lastSys.currentSpsr = none :=
  ⟨⟨all_ready (by decide), ready_of (by decide), by decide⟩,
    ⟨ready_of (by decide), by decide⟩,
    ⟨ready_of (by decide), by decide⟩,
    ⟨ready_of (by decide), by decide⟩,
    ⟨ready_of (by decide), by decide⟩,
    ⟨ready_of (by decide), by decide⟩,
    ⟨ready_of (by decide), by decide⟩,
    ⟨ready_of (by decide), by decide⟩⟩

/-- For MoveOperations: each clause of `Computes`. -/
theorem test_witness_MoveOperations :
    ((∀ i ∈ dataForms, Ready i last) ∧ Ready (.movShiftImm .al true 14 { rm := 2, kind := .lsl, amount := 0 }) last
      ∧ (14 : RegNum) ≠ 15 ∧ last.pc ≠ 0xFFFFFFFC)
    ∧ (Ready (.movShiftImm .al false 15 { rm := 14, kind := .lsl, amount := 0 }) last
      ∧ (shiftImmShifted { rm := 14, kind := .lsl, amount := 0 } last).value.extractLsb' 0 2 = 0)
    ∧ (Ready (.movShiftImm .al false 15 { rm := 2, kind := .lsl, amount := 0 }) last
      ∧ (shiftImmShifted { rm := 2, kind := .lsl, amount := 0 } last).value.extractLsb' 0 2 ≠ 0)
    ∧ (Ready (.movShiftImm .al true 15 { rm := 14, kind := .lsl, amount := 0 }) last ∧ last.currentSpsr = some 0x60000010
      ∧ (modeOf 0x60000010).isSome = true ∧ alignedFor 0x60000010 (shiftImmShifted { rm := 14, kind := .lsl, amount := 0 } last).value = true)
    ∧ (Ready (.movShiftImm .al true 15 { rm := 14, kind := .lsl, amount := 0 }) lastAbt ∧ lastAbt.currentSpsr = some 0 ∧ modeOf 0 = none)
    ∧ (Ready (.movShiftImm .al true 15 { rm := 2, kind := .lsl, amount := 0 }) last ∧ last.currentSpsr = some 0x60000010
      ∧ (modeOf 0x60000010).isSome = true ∧ (0x60000010 : Word).getLsbD 5 = false
      ∧ (shiftImmShifted { rm := 2, kind := .lsl, amount := 0 } last).value.extractLsb' 0 2 ≠ 0)
    ∧ (Ready (.movImm .al true 15 { rot := 0, imm8 := 1 }) lastIrq ∧ lastIrq.currentSpsr = some 0x80000030
      ∧ (modeOf 0x80000030).isSome = true ∧ (0x80000030 : Word).getLsbD 5 = true
      ∧ ((rotImmShifted { rot := 0, imm8 := 1 } lastIrq.flags.c).value).getLsbD 0 = true)
    ∧ Ready (.movShiftImm .al true 15 { rm := 14, kind := .lsl, amount := 0 }) lastSys ∧ lastSys.currentSpsr = none :=
  ⟨⟨all_ready (by decide), ready_of (by decide), by decide⟩,
    ⟨ready_of (by decide), by decide⟩,
    ⟨ready_of (by decide), by decide⟩,
    ⟨ready_of (by decide), by decide⟩,
    ⟨ready_of (by decide), by decide⟩,
    ⟨ready_of (by decide), by decide⟩,
    ⟨ready_of (by decide), by decide⟩,
    ⟨ready_of (by decide), by decide⟩⟩

theorem test_witness_CompareOperations : (∀ i ∈ compareForms, Ready i last) ∧ last.pc ≠ 0xFFFFFFFC :=
  ⟨all_ready (by decide), by decide⟩

/-- For MultiplyShort and MultiplyLong, with and without S. -/
theorem test_witness_Multiplies : (∀ i ∈ multiplyForms, Ready i last) ∧ last.pc ≠ 0xFFFFFFFC :=
  ⟨all_ready (by decide), by decide⟩

/-- LDR at the last words of Flash, SRAM and the boot block; to R15 with an aligned and with a misaligned value. -/
theorem test_witness_LoadWord :
    (∀ i ∈ transferForms, Ready i last) ∧ last.pc ≠ 0xFFFFFFFC
    ∧ (Ready (.ldrImmPre .al true false 3 0 0) last
      ∧ remap last.sys.memmap (preIndexed true false (last.readReg 3) (offset12 0)).addr = some 0x7FFFC
      ∧ plainMemory 0x7FFFC ∧ 0x7FFFC % 4 = 0)
    ∧ (Ready (.ldrRegPost .al true 1 15 { rm := 5, kind := .lsl, amount := 0 }) last
      ∧ remap last.sys.memmap (postIndexed true (last.readReg 1) 8).addr = some 0x4000FFFC ∧ plainMemory 0x4000FFFC
      ∧ (last.wordAt 0x4000FFFC).extractLsb' 0 2 = 0)
    ∧ plainMemory 0x7FFFFFFC ∧ (0x7FFFFFFC % 4 = 0)
    ∧ Ready (.ldrImmPre .al true false 3 15 0) { last with mem := [(0x7FFFC, 2)] }
      ∧ (State.wordAt { last with mem := [(0x7FFFC, 2)] } 0x7FFFC).extractLsb' 0 2 ≠ 0 :=
  ⟨all_ready (by decide), by decide, ⟨ready_of (by decide), by decide⟩, ⟨ready_of (by decide), by decide⟩, by decide,
    by decide, ready_of (by decide), by decide⟩

/-- Every narrow load is ready (with Rd = R15 it is ill formed); the last byte and halfword of SRAM. -/
theorem test_witness_LoadByteAndHalfword :
    (∀ i ∈ transferForms, Ready i last) ∧ last.pc ≠ 0xFFFFFFFC
    ∧ remap last.sys.memmap (preIndexed true false (last.readReg 1) (offset8 3)).addr = some 0x4000FFFF
    ∧ plainMemory 0x4000FFFF ∧ 0x4000FFFF % 1 = 0
    ∧ remap last.sys.memmap (preIndexed true false (last.readReg 1) (offset8 2)).addr = some 0x4000FFFE
    ∧ plainMemory 0x4000FFFE ∧ 0x4000FFFE % 2 = 0 :=
  ⟨all_ready (by decide), by decide⟩

/-- Stores to the last word, halfword and byte of SRAM, and to the first word of the Ethernet RAM. -/
theorem test_witness_StoreWord :
    (∀ i ∈ transferForms, Ready i last) ∧ last.memoryLegal = true ∧ last.pc ≠ 0xFFFFFFFC
    ∧ remap last.sys.memmap (preIndexed true true (last.readReg 1) (offset12 0)).addr = some 0x4000FFFC
    ∧ plainRam 0x4000FFFC ∧ 0x4000FFFC % 4 = 0 ∧ intoPrefetch 0x4000FFFC last = false
    ∧ remap last.sys.memmap (postIndexed true 0x7FE00000 (offset12 0)).addr = some 0x7FE00000
    ∧ plainRam 0x7FE00000 ∧ intoPrefetch 0x7FE00000 last = false :=
  ⟨all_ready (by decide), by decide⟩

theorem test_witness_StoreByteAndHalfword :
    (∀ i ∈ transferForms, Ready i last) ∧ last.memoryLegal = true ∧ last.pc ≠ 0xFFFFFFFC
    ∧ remap last.sys.memmap (preIndexed true false (last.readReg 1) (offset8 3)).addr = some 0x4000FFFF
    ∧ plainRam 0x4000FFFF ∧ 0x4000FFFF % 1 = 0 ∧ intoPrefetch 0x4000FFFF last = false
    ∧ remap last.sys.memmap (preIndexed true false (last.readReg 1) (offset8 2)).addr = some 0x4000FFFE
    ∧ plainRam 0x4000FFFE ∧ 0x4000FFFE % 2 = 0 ∧ intoPrefetch 0x4000FFFE last = false :=
  ⟨all_ready (by decide), by decide⟩

/-- An aligned swap at the last word of SRAM, and a misaligned one. -/
theorem test_witness_SwapExchanges :
    (Ready (.swp .al 1 0 0) last ∧ Ready (.swpb .al 1 0 0) last ∧ last.memoryLegal = true
      ∧ remap last.sys.memmap (last.reg 1) = some 0x4000FFFC ∧ plainRam 0x4000FFFC ∧ 0x4000FFFC % 4 = 0
      ∧ intoPrefetch 0x4000FFFC last = false ∧ last.pc ≠ 0xFFFFFFFC)
    ∧ Ready (.swp .al 2 0 0) last ∧ remap last.sys.memmap (last.reg 2) = some 0x40000202 ∧ plainMemory 0x40000202
      ∧ 0x40000202 % 4 ≠ 0 :=
  ⟨⟨ready_of (by decide), ready_of (by decide), by decide⟩, ready_of (by decide), by decide⟩

/-- For LoadWord and LoadByteAndHalfword at a device: a narrow and a misaligned access; a read that stops, one that aborts,
and one that answers, into R0 and, aligned and misaligned, into R15. -/
theorem test_witness_LoadsDevice :
    let at_ : Nat → RegNum → Prop := fun p r =>
      remap lastDev.sys.memmap (preIndexed true false (lastDev.readReg r) (offset12 0)).addr = some p
        ∧ (regionOf p).kind = .device
    ((Ready (.ldrbImmPre .al true false 8 0 0) lastDev ∧ at_ 0xFFFFFFFF 8)
      ∧ Ready (.ldrImmPre .al true false 2 0 0) lastDev ∧ at_ 0xE01FC002 2 ∧ 0xE01FC002 % 4 ≠ 0)
    ∧ (Ready (.ldrImmPre .al true false 5 0 0) lastDev ∧ at_ 0xFFE08000 5
      ∧ ∃ f, memRead (lastDev.readReg 5) .word lastDev = .stop f)
    ∧ (Ready (.ldrImmPre .al true false 6 0 0) lastDevUser ∧ at_ 0xFFFFF020 6
      ∧ ∃ dev, memRead (lastDevUser.readReg 6) .word lastDevUser = .abort dev)
    ∧ (Ready (.ldrImmPre .al true false 7 0 0) lastDev ∧ at_ 0xFFFFEFFC 7 ∧ lastDev.pc ≠ 0xFFFFFFFC
      ∧ ∃ x dev, memRead (lastDev.readReg 7) .word lastDev = .ok x dev)
    ∧ (Ready (.ldrImmPre .al true false 3 15 0) lastDev ∧ at_ 0xFFFFF00C 3
      ∧ given (memRead (lastDev.readReg 3) .word lastDev) = some 0)
    ∧ Ready (.ldrImmPre .al true false 4 15 0) lastDev ∧ at_ 0xFFFFF018 4
      ∧ given (memRead (lastDev.readReg 4) .word lastDev) = some 1 :=
  ⟨⟨⟨ready_of (by decide), by decide⟩, ready_of (by decide), by decide⟩,
    ⟨ready_of (by decide), by decide, stopped_with (by decide)⟩,
    ⟨ready_of (by decide), by decide, aborted_at (by decide)⟩,
    ⟨ready_of (by decide), by decide, by decide, given_ok (by decide)⟩, ⟨ready_of (by decide), by decide⟩,
    ready_of (by decide), by decide⟩

/-- For StoreWord and StoreByteAndHalfword at a device: a narrow access; a write that stops, aborts, is taken. -/
theorem test_witness_StoresDevice :
    let at_ : Nat → RegNum → Prop := fun p r =>
      remap lastDev.sys.memmap (preIndexed true false (lastDev.readReg r) (offset12 0)).addr = some p
        ∧ (regionOf p).kind = .device ∧ p % 4 = 0
    (Ready (.strhImmPre .al true false 1 0 0) lastDev ∧ at_ 0xE01FC000 1)
    ∧ (Ready (.strImmPre .al true false 7 0 0) lastDev ∧ at_ 0xFFFFEFFC 7
      ∧ ∃ f, memWrite (lastDev.readReg 7) .word (lastDev.reg 0) lastDev = .stop f)
    ∧ (Ready (.strImmPre .al true false 6 0 0) lastDevUser ∧ at_ 0xFFFFF020 6
      ∧ ∃ dev, memWrite (lastDevUser.readReg 6) .word (lastDevUser.reg 0) lastDevUser = .abort dev)
    ∧ Ready (.strImmPost .al true 1 0 4) lastDev ∧ at_ 0xE01FC000 1 ∧ lastDev.pc ≠ 0xFFFFFFFC
      ∧ ∃ u dev, memWrite (lastDev.readReg 1) .word (lastDev.reg 0) lastDev = .ok u dev :=
  ⟨⟨ready_of (by decide), by decide⟩, ⟨ready_of (by decide), by decide, stopped_with (by decide)⟩,
    ⟨ready_of (by decide), by decide, aborted_at (by decide)⟩, ready_of (by decide), by decide, by decide,
    given_ok (by decide)⟩

/-- For SwapExchanges at a device: a byte; a read that stops, one that aborts, one before a write that stops and one before a
write that is taken. -/
theorem test_witness_SwapsDevice :
    let at_ : Nat → RegNum → Prop := fun p r =>
      remap lastDev.sys.memmap (lastDev.reg r) = some p ∧ (regionOf p).kind = .device
    let after (r : RegNum) : State :=
      match memRead (lastDev.reg r) .word lastDev with
      | .ok _ t => t
      | .abort _ => lastDev
      | .stop _ => lastDev
    (Ready (.swpb .al 8 0 0) lastDev ∧ at_ 0xFFFFFFFF 8)
    ∧ (Ready (.swp .al 5 0 0) lastDev ∧ at_ 0xFFE08000 5 ∧ ∃ f, memRead (lastDev.reg 5) .word lastDev = .stop f)
    ∧ (Ready (.swp .al 6 0 0) lastDevUser ∧ at_ 0xFFFFF020 6
      ∧ ∃ dev, memRead (lastDevUser.reg 6) .word lastDevUser = .abort dev)
    ∧ (Ready (.swp .al 7 0 0) lastDev ∧ at_ 0xFFFFEFFC 7 ∧ (∃ x mid, memRead (lastDev.reg 7) .word lastDev = .ok x mid)
      ∧ ∃ f, memWrite (lastDev.reg 7) .word (lastDev.reg 0) (after 7) = .stop f)
    ∧ Ready (.swp .al 1 0 0) lastDev ∧ at_ 0xE01FC000 1 ∧ lastDev.pc ≠ 0xFFFFFFFC
      ∧ (∃ x mid, memRead (lastDev.reg 1) .word lastDev = .ok x mid)
      ∧ ∃ u dev, memWrite (lastDev.reg 1) .word (lastDev.reg 0) (after 1) = .ok u dev :=
  ⟨⟨ready_of (by decide), by decide⟩, ⟨ready_of (by decide), by decide, stopped_with (by decide)⟩,
    ⟨ready_of (by decide), by decide, aborted_at (by decide)⟩,
    ⟨ready_of (by decide), by decide, given_ok (by decide), stopped_with (by decide)⟩, ready_of (by decide), by decide,
    by decide, given_ok (by decide), given_ok (by decide)⟩

/-- For the device clauses of LoadMultiple and StoreMultiple: one register, with the decrementing and incrementing forms. -/
theorem test_witness_BlockDevice :
    lastDev.userBankLdm = false ∧ (1#16 <<< (15 : RegNum).toNat = 0x8000#16)
    ∧ Ready (.ldm .al false true false true 3 0x8000) lastDev ∧ Ready (.ldm .al true false false false 1 1) lastDev
    ∧ Ready (.stm .al false true false true 1 1) lastDev ∧ Ready (.stm .al true false false false 1 0x8000) lastDev
    ∧ remap lastDev.sys.memmap (lastDev.reg 1) = some 0xE01FC000 ∧ (regionOf 0xE01FC000).kind = .device
    ∧ remap lastDev.sys.memmap (lastDev.reg 1 - 4) = some 0xE01FBFFC ∧ (regionOf 0xE01FBFFC).kind = .unmapped :=
  ⟨by decide, by decide, ready_of (by decide), ready_of (by decide), ready_of (by decide), ready_of (by decide), by decide⟩

/-- One word at the end of SRAM with write-back; fifteen words into the User bank. -/
theorem test_witness_LoadMultiple :
    (Ready (.ldm .al false true false true 1 1) last ∧ (1 : BitVec 16).getLsbD 15 = false
      ∧ (firstWord false true (last.reg 1) 1).toNat % 4 = 0
      ∧ (firstWord false true (last.reg 1) 1).toNat + 4 * wordsOf 1 ≤ 2 ^ 32
      ∧ (∀ j, j < wordsOf 1 → ∃ q,
          remap last.sys.memmap (firstWord false true (last.reg 1) 1 + BitVec.ofNat 32 (4 * j)) = some q
            ∧ plainMemory q)
      ∧ last.pc ≠ 0xFFFFFFFC)
    ∧ Ready (.ldm .al true false true false 13 0x7FFF) last ∧ (0x7FFF : BitVec 16).getLsbD 15 = false
      ∧ last.currentSpsr.isSome = true
      ∧ (firstWord true false (last.reg 13) 0x7FFF).toNat % 4 = 0
      ∧ (firstWord true false (last.reg 13) 0x7FFF).toNat + 4 * wordsOf 0x7FFF ≤ 2 ^ 32
      ∧ ∀ j, j < wordsOf 0x7FFF → ∃ q,
          remap last.sys.memmap (firstWord true false (last.reg 13) 0x7FFF + BitVec.ofNat 32 (4 * j))
            = some q ∧ plainMemory q :=
  ⟨⟨ready_of (by decide), by decide, by decide, by decide, block_of (by decide), by decide⟩, ready_of (by decide),
    by decide, by decide, by decide, by decide, block_of (by decide)⟩

/-- R15 alone at the end of SRAM; all sixteen with ^; a return to Thumb state with an odd word. -/
theorem test_witness_LoadMultipleWithPc :
    (Ready (.ldm .al false true false true 1 0x8000) last ∧ (0x8000 : BitVec 16).getLsbD 15 = true
      ∧ (∀ j, j < wordsOf 0x8000 → ∃ q,
          remap last.sys.memmap (firstWord false true (last.reg 1) 0x8000 + BitVec.ofNat 32 (4 * j))
            = some q ∧ plainMemory q)
      ∧ remap last.sys.memmap
          (firstWord false true (last.reg 1) 0x8000 + BitVec.ofNat 32 (4 * (wordsOf 0x8000 - 1)))
        = some 0x4000FFFC ∧ (last.wordAt 0x4000FFFC).extractLsb' 0 2 = 0)
    ∧ Ready (.ldm .al true false true false 13 0xFFFF) last ∧ (0xFFFF : BitVec 16).getLsbD 15 = true
      ∧ (firstWord true false (last.reg 13) 0xFFFF).toNat % 4 = 0
      ∧ (∀ j, j < wordsOf 0xFFFF → ∃ q,
          remap last.sys.memmap (firstWord true false (last.reg 13) 0xFFFF + BitVec.ofNat 32 (4 * j))
            = some q ∧ plainMemory q)
      ∧ remap last.sys.memmap
          (firstWord true false (last.reg 13) 0xFFFF + BitVec.ofNat 32 (4 * (wordsOf 0xFFFF - 1)))
        = some 0x40000FFC
      ∧ (∃ psr, last.currentSpsr = some psr ∧ (modeOf psr).isSome = true
        ∧ (psr.getLsbD 5 = true ∨ (last.wordAt 0x40000FFC).extractLsb' 0 2 = 0))
      ∧ (let s := { lastIrq with mem := [(0x4000FFFC, 1)] }
        Ready (.ldm .al false true true true 1 0x8000) s ∧ s.currentSpsr = some 0x80000030
        ∧ (modeOf 0x80000030).isSome = true ∧ (0x80000030 : Word).getLsbD 5 = true
        ∧ (s.wordAt 0x4000FFFC).getLsbD 0 = true) :=
  ⟨⟨ready_of (by decide), by decide, block_of (by decide), by decide, by decide⟩, ready_of (by decide), by decide,
    by decide, block_of (by decide), by decide, ⟨_, rfl, by decide⟩, ready_of (by decide), by decide⟩

/-- One word at the end of SRAM with write-back; all sixteen registers with ^. -/
theorem test_witness_StoreMultiple :
    (Ready (.stm .al false true false true 1 2) last ∧ last.memoryLegal = true
      ∧ (∀ j, j < wordsOf 2 → ∃ q,
          remap last.sys.memmap (firstWord false true (last.reg 1) 2 + BitVec.ofNat 32 (4 * j)) = some q
            ∧ (plainRam q ∧ intoPrefetch q last = false))
      ∧ last.pc ≠ 0xFFFFFFFC)
    ∧ Ready (.stm .al true false true false 13 0xFFFF) last ∧ last.currentSpsr.isSome = true
      ∧ (firstWord true false (last.reg 13) 0xFFFF).toNat % 4 = 0
      ∧ (firstWord true false (last.reg 13) 0xFFFF).toNat + 4 * wordsOf 0xFFFF ≤ 2 ^ 32
      ∧ ∀ j, j < wordsOf 0xFFFF → ∃ q,
          remap last.sys.memmap (firstWord true false (last.reg 13) 0xFFFF + BitVec.ofNat 32 (4 * j))
            = some q ∧ (plainRam q ∧ intoPrefetch q last = false) :=
  ⟨⟨ready_of (by decide), by decide, block_of (by decide), by decide⟩, ready_of (by decide), by decide, by decide,
    by decide, block_of (by decide)⟩

/-- No SPSR in System and in User mode; two words from the last address, aligned or not; a misaligned value for R15, without
^ and with it; an SPSR that names no mode. -/
theorem test_witness_BlockTransfersThatStop :
    (Ready (.ldm .al false true true false 1 1) lastSys ∧ Ready (.stm .al false true true false 1 1) lastUser
      ∧ lastSys.mode = .system ∧ lastUser.mode = .user)
    ∧ (let s := with_ [(1, 0xFFFFFFFC)] last
      2 ^ 32 < (firstWord false true (s.reg 1) 3).toNat - (firstWord false true (s.reg 1) 3).toNat % 4 + 4 * wordsOf 3
      ∧ (let f := (firstWord false true (s.reg 1 + 3) 3).toNat
        2 ^ 32 < f - f % 4 + 4 * wordsOf 3)
      ∧ Ready (.ldm .al false true false false 1 3) s ∧ Ready (.stm .al false true false false 1 3) s)
    ∧ (let s := { last with mem := [(0x4000FFFC, 1)] }
      Ready (.ldm .al false true false false 1 0x8000) s ∧ (0x8000 : BitVec 16).getLsbD 15 = true
      ∧ (∀ j, j < wordsOf 0x8000 → ∃ q,
          remap s.sys.memmap (firstWord false true (s.reg 1) 0x8000 + BitVec.ofNat 32 (4 * j)) = some q
            ∧ plainMemory q)
      ∧ (s.wordAt 0x4000FFFC).extractLsb' 0 2 ≠ 0
      ∧ Ready (.ldm .al false true true false 1 0x8000) s ∧ s.currentSpsr = some 0x60000010
      ∧ (modeOf 0x60000010).isSome = true ∧ (0x60000010 : Word).getLsbD 5 = false)
    ∧ Ready (.ldm .al false true true false 1 0x8000) lastAbt ∧ lastAbt.currentSpsr = some 0 ∧ modeOf 0 = none :=
  ⟨⟨ready_of (by decide), ready_of (by decide), by decide⟩,
    ⟨by decide, by decide, ready_of (by decide), ready_of (by decide)⟩,
    ⟨ready_of (by decide), by decide, block_of (by decide), by decide, ready_of (by decide), by decide⟩,
    ready_of (by decide), by decide⟩

/-- Vector M21: the second of two words lies past the SRAM, for LDM and STM, with ! and with ^; the first word there. -/
theorem test_witness_BlockTransfersThatAbort :
    (Ready (.ldm .al false true false true 1 5) last ∧ Ready (.ldm .al false true true false 1 5) last
      ∧ Ready (.ldm .al false true true true 1 0x8001) last ∧ Ready (.stm .al false true false true 1 5) last
      ∧ Ready (.stm .al false true true false 1 5) last ∧ last.memoryLegal = true ∧ last.currentSpsr.isSome = true)
    ∧ (1 < wordsOf 5 ∧ (firstWord false true (last.reg 1) 5).toNat % 4 = 0
      ∧ (firstWord false true (last.reg 1) 5).toNat + 4 * wordsOf 5 ≤ 2 ^ 32)
    ∧ (∀ k, k < 1 → ∃ q,
        remap last.sys.memmap (firstWord false true (last.reg 1) 5 + BitVec.ofNat 32 (4 * k)) = some q
          ∧ (plainMemory q ∧ plainRam q ∧ intoPrefetch q last = false))
    ∧ remap last.sys.memmap (firstWord false true (last.reg 1) 5 + BitVec.ofNat 32 (4 * 1)) = some 0x40010000
    ∧ ((regionOf 0x40010000).kind = .unmapped ∧ 0x40010000 < 0xE0000000)
    ∧ remap last.sys.memmap (firstWord true true (last.reg 1) 5 + BitVec.ofNat 32 (4 * 0)) = some 0x40010000 :=
  ⟨⟨ready_of (by decide), ready_of (by decide), ready_of (by decide), ready_of (by decide), ready_of (by decide),
    by decide⟩, by decide, block_of (by decide), by decide, by decide, by decide⟩

/-- Single transfers at offsets 1 and 3 from the last word of SRAM, a load into R15 at a misaligned address whose rotated word
is aligned and one whose is not, and blocks that start one to three bytes into a word, for each clause. -/
theorem test_witness_MisalignedTransfers :
    let at_ : State → Word → Nat → Prop := fun s a q => remap s.sys.memmap a = some q ∧ plainMemory q
    let odd := { last with mem := [(0x4000FFFC, 1)] }
    let oddIrq := { lastIrq with mem := [(0x4000FFFC, 1)] }
    ((Ready (.ldrImmPre .al true false 1 0 3) last ∧ last.pc ≠ 0xFFFFFFFC
        ∧ at_ last (preIndexed true false (last.readReg 1) (offset12 3)).addr 0x4000FFFF)
      ∧ (Ready (.ldrImmPre .al true false 1 15 2) last
        ∧ ((last.wordAt 0x4000FFFC).rotateRight (8 * (0x4000FFFE % 4))).extractLsb' 0 2 = 0)
      ∧ Ready (.ldrImmPre .al true false 2 15 0) { last with mem := [(0x40000202, 1)] }
        ∧ ((State.wordAt { last with mem := [(0x40000202, 1)] } 0x40000200).rotateRight (8 * (0x40000202 % 4))).extractLsb' 0 2
          ≠ 0)
    ∧ (Ready (.strImmPre .al true false 1 15 1) last ∧ last.memoryLegal = true ∧ plainRam 0x4000FFFD
      ∧ intoPrefetch (0x4000FFFD - 0x4000FFFD % 4) last = false
      ∧ at_ last (preIndexed true false (last.readReg 1) (offset12 1)).addr 0x4000FFFD)
    ∧ (Ready (.ldrhImmPre .al true false 1 0 3) last ∧ Ready (.ldrshImmPre .al true true 1 0 3) last
      ∧ Ready (.strhImmPost .al true 1 0 3) last
      ∧ at_ last (preIndexed true false (last.readReg 1) (offset8 3)).addr 0x4000FFFF ∧ 0x4000FFFF % 2 = 1)
    ∧ (let f := (firstWord false true (last.reg 2) 0xC001).toNat
      f % 4 = 2 ∧ f - f % 4 + 4 * wordsOf 0xC001 ≤ 2 ^ 32 ∧ last.currentSpsr.isSome = true)
    ∧ (Ready (.ldm .al false true false true 2 1) last ∧ Ready (.ldm .al false true true false 2 0x6001) last
      ∧ Ready (.ldm .al false true false true 2 0xC001) last ∧ Ready (.ldm .al false true true true 2 0xC001) last
      ∧ Ready (.stm .al false true true false 2 0xC001) last
      ∧ ∀ j, j < wordsOf 0xC001 → ∃ q,
        remap last.sys.memmap (firstWord false true (last.reg 2) 0xC001 + BitVec.ofNat 32 (4 * j)) = some q
          ∧ (plainMemory q ∧ plainRam q ∧ intoPrefetch (q - q % 4) last = false))
    ∧ ((last.wordAt (0x4000020A - 0x4000020A % 4)).extractLsb' 0 2 = 0
      ∧ remap last.sys.memmap (firstWord false true (last.reg 2) 0xC001 + BitVec.ofNat 32 (4 * (wordsOf 0xC001 - 1)))
        = some 0x4000020A
      ∧ last.currentSpsr = some 0x60000010 ∧ (modeOf 0x60000010).isSome = true)
    ∧ (oddIrq.currentSpsr = some 0x80000030 ∧ (modeOf 0x80000030).isSome = true ∧ (0x80000030 : Word).getLsbD 5 = true
      ∧ (odd.wordAt (0x4000FFFD - 0x4000FFFD % 4)).getLsbD 0 = true) :=
  ⟨⟨⟨ready_of (by decide), by decide⟩, ⟨ready_of (by decide), by decide⟩, ready_of (by decide), by decide⟩,
    ⟨ready_of (by decide), by decide⟩,
    ⟨ready_of (by decide), ready_of (by decide), ready_of (by decide), by decide⟩, by decide,
    ⟨ready_of (by decide), ready_of (by decide), ready_of (by decide), ready_of (by decide), ready_of (by decide),
      block_of (by decide)⟩, by decide, by decide⟩

theorem test_witness_BranchAndLink : last.pc.extractLsb' 0 2 = 0 ∧ last.passes .al = true := by decide

/-- Targets with low bits 1, 3, 0 and 2. -/
theorem test_witness_BranchExchange :
    let s := with_ [(0, 1), (4, 3)] last
    (∀ r : List RegNum, r = [0, 4, 14, 2] → ∀ x ∈ r, Ready (.bx .al x) s ∧ Ready (.blxReg .al x) s)
    ∧ (s.readReg 0).getLsbD 0 = true ∧ (s.readReg 4).getLsbD 0 = true ∧ (s.readReg 14).extractLsb' 0 2 = 0
    ∧ (s.readReg 2).extractLsb' 0 2 = 2 := by
  refine ⟨?_, by decide⟩
  intro r hr x hx
  rw [hr] at hx
  simp only [List.mem_cons, List.not_mem_nil, or_false] at hx
  rcases hx with rfl | rfl | rfl | rfl <;> exact ⟨ready_of (by decide), ready_of (by decide)⟩

theorem test_witness_StatusRegisterRead :
    last.pc ≠ 0xFFFFFFFC ∧ Ready (.mrs .al false 14) lastUser ∧ Ready (.mrs .al true 0) last
    ∧ last.currentSpsr = some 0x60000010 ∧ Ready (.mrs .al true 0) lastUser ∧ lastUser.mode = .user
    ∧ Ready (.mrs .al true 0) lastSys ∧ lastSys.mode = .system :=
  ⟨by decide, ready_of (by decide), ready_of (by decide), by decide, ready_of (by decide), by decide,
    ready_of (by decide), by decide⟩

/-- A legal value, in privileged and in User mode; a change of T; an illegal mode. -/
theorem test_witness_StatusRegisterWrite :
    let new : BitVec 4 → Word → State → Word → Prop := fun mask v s new => ∀ k, k < 32 →
      new.getLsbD k = if mask.getLsbD (k / 8) && (s.mode != .user || decide (24 ≤ k)) then v.getLsbD k
        else s.cpsr.getLsbD k
    (new 9 0xFF00001F last 0xFF00001F ∧ (modeOf 0xFF00001F).isSome = true ∧ Ready (.msrReg .al false 9 1) last)
    ∧ (new 15 0xFFFFFFFF lastUser 0xFF000010 ∧ (modeOf 0xFF000010).isSome = true ∧ Ready (.msrReg .al false 15 1) lastUser)
    ∧ (new 1 0x33 last 0x33 ∧ (0x33 : Word).getLsbD 5 ≠ last.cpsr.getLsbD 5 ∧ Ready (.msrReg .al false 1 1) last)
    ∧ (new 1 0 last 0 ∧ modeOf 0 = none ∧ Ready (.msrReg .al false 1 1) last)
    ∧ new 8 (rotImmValue { rot := 4, imm8 := 0xF0 }) last 0xF00000D3
      ∧ Ready (.msrImm .al false 8 { rot := 4, imm8 := 0xF0 }) last :=
  ⟨⟨by decide, by decide, ready_of (by decide)⟩, ⟨by decide, by decide, ready_of (by decide)⟩,
    ⟨by decide, by decide, ready_of (by decide)⟩, ⟨by decide, by decide, ready_of (by decide)⟩, by decide,
    ready_of (by decide)⟩

theorem test_witness_SavedStatusWrite :
    last.pc ≠ 0xFFFFFFFC ∧ Ready (.msrReg .al true 15 1) last ∧ Ready (.msrImm .al true 15 { rot := 0, imm8 := 0 }) last
    ∧ last.currentSpsr = some 0x60000010 ∧ Ready (.msrReg .al true 15 1) lastSys ∧ lastSys.mode = .system
    ∧ Ready (.msrImm .al true 15 { rot := 0, imm8 := 0 }) lastUser ∧ lastUser.mode = .user :=
  ⟨by decide, ready_of (by decide), ready_of (by decide), by decide, ready_of (by decide), by decide,
    ready_of (by decide), by decide⟩

/-- For SoftwareInterrupt and UndefinedAndBreakpoint, also at the very end of the address space. -/
theorem test_witness_ExceptionInstructions :
    (∀ i ∈ exceptionForms, Ready i lastUser) ∧ lastUser.thumb = false ∧ (∀ i ∈ exceptionForms, Ready i ending)
    ∧ ending.thumb = false :=
  ⟨all_ready (by decide), by decide, all_ready (by decide), by decide⟩

/-- A value that MOV can give, one that needs the literal pool, and the ends of the address range. -/
theorem test_witness_PseudoInstructions :
    let s := { last with pc := 0xFFFFFFF4 }
    let lit := { last with pc := 0x40000100 }
    (last.pc ≠ 0xFFFFFFFC ∧ last.passes .al = true ∧ (14 : RegNum) ≠ 15)
    ∧ (Instr.isPseudo .nop = true
      ∧ Instr.expand .nop = [.movShiftImm .al false 0 { rm := 0, kind := .lsl, amount := 0 }])
    ∧ (s.pc ≠ 0xFFFFFFFC ∧ s.pc + 4 ≠ 0xFFFFFFFC)
    ∧ (∃ op : RotImm, rotImmValue op = 0xFF000000 ∨ rotImmValue op = ~~~0xFF000000)
    ∧ (∀ op : RotImm, rotImmValue op ≠ 0x00010001 ∧ rotImmValue op ≠ ~~~0x00010001)
      ∧ remap lit.sys.memmap (offsetSum true (lit.pc + 8) (offset12 0xFF8)) = some 0x40001100 ∧ plainMemory 0x40001100
      ∧ 0x40001100 % 4 = 0 := by
  refine ⟨by decide, by decide, by decide, ⟨{ rot := 4, imm8 := 0xFF }, by decide⟩, fun op => ⟨fun h => ?_, fun h => ?_⟩,
    by decide⟩
  · have := rotImmValue_span op 0 (by decide) (by rw [h]; decide)
    rw [h] at this
    revert this
    decide
  · have := rotImmValue_span op 1 (by decide) (by rw [h]; decide)
    rw [h] at this
    revert this
    decide

/-- Just past the SRAM, with and without write-back, for a word, a byte, an odd halfword and a swap; an unused APB slot; a load
whose base is R15. -/
theorem test_witness_DataAbortOnUnusedAddress :
    (Ready (.ldrImmPre .al true false 1 0 4) last ∧ Ready (.strImmPre .al true true 1 0 4) last
      ∧ remap last.sys.memmap (preIndexed true true (last.readReg 1) (offset12 4)).addr = some 0x40010000
      ∧ (regionOf 0x40010000).kind = .unmapped ∧ 0x40010000 < 0xE0000000
      ∧ (preIndexed true true (last.readReg 1) (offset12 4)).wb = some 0x40010000)
    ∧ (let s := with_ [(1, 0xE004C000)] last
      Ready (.ldrImmPost .al false 1 0 4) s ∧ Ready (.strImmPost .al false 1 0 4) s
      ∧ remap s.sys.memmap (postIndexed false (s.readReg 1) (offset12 4)).addr = some 0xE004C000
      ∧ (regionOf 0xE004C000).kind = .unmapped
      ∧ Ready (.swp .al 1 0 0) s ∧ Ready (.swpb .al 1 0 0) s ∧ remap s.sys.memmap (s.reg 1) = some 0xE004C000)
    ∧ (Ready (.ldrshRegPre .al true true 1 0 5) last ∧ Ready (.strbRegPre .al true true 1 0 { rm := 5, kind := .lsl, amount := 0 }) last
      ∧ remap last.sys.memmap (preIndexed true true (last.readReg 1) (last.readReg 5)).addr = some 0x40010004
      ∧ Ready (.ldrhImmPre .al true false 1 0 5) last
      ∧ remap last.sys.memmap (preIndexed true false (last.readReg 1) (offset8 5)).addr = some 0x40010001
      ∧ (regionOf 0x40010001).kind = .unmapped)
    ∧ Ready (.ldrImmPre .al true false 15 0 4) { last with pc := 0xE01FBFF4 }
      ∧ (regionOf 0xE01FC000).kind ≠ .unmapped ∧ (regionOf 0xE0200000).kind = .unmapped ∧ 0xE0200000 ≤ 0xE0200000 :=
  ⟨⟨ready_of (by decide), ready_of (by decide), by decide⟩,
    ⟨ready_of (by decide), ready_of (by decide), by decide, by decide, ready_of (by decide), ready_of (by decide), by decide⟩,
    ⟨ready_of (by decide), ready_of (by decide), by decide, ready_of (by decide), by decide⟩, ready_of (by decide), by decide⟩

/-- The edges of each region a store may not touch, and the two prefetched words. -/
theorem test_witness_StoresThatStop :
    (∀ p ∈ [0x40, 0x7FFFF], remap 1 (BitVec.ofNat 32 p) = some p ∧ alignAddress .byte p = some p ∧ regionOf p = .flash)
    ∧ (∀ p ∈ [0x7FFFE000, 0x7FFFFFFF],
        remap 1 (BitVec.ofNat 32 p) = some p ∧ alignAddress .byte p = some p ∧ regionOf p = .boot)
    ∧ (∀ p ∈ [0x40000104, 0x4000010B],
        remap 1 (BitVec.ofNat 32 p) = some p ∧ alignAddress .byte p = some p ∧ plainRam p ∧ intoPrefetch p start = true)
    ∧ (intoPrefetch 0x40000103 start = false ∧ intoPrefetch 0x4000010C start = false)
    ∧ ((regionOf 0xFFFFFFFF).kind = .device ∧ wholeWord .byte 0xFFFFFFFF = false ∧ wholeWord .word 0xFFFFFFFE = false)
    ∧ (regionOf 0xE0000000 = .apb 0 ∧ wholeWord .word 0xE0000000 = true ∧ (0 ≠ 11 ∧ 0 ≠ 127))
    ∧ (start.pc.extractLsb' 0 2 = 0 ∧ remap start.sys.memmap (start.pc + 4) = some 0x40000104)
    ∧ ∀ p ∈ [0xFFFFC000, 0xFFFFEFFC], remap 1 (BitVec.ofNat 32 p) = some p ∧ 0xFFFFC000 ≤ p ∧ p < 0xFFFFF000 ∧ p % 4 = 0 := by
  decide

/-- Registers that share storage and registers that do not, at each boundary of the bank table. -/
theorem test_witness_RegisterBanks :
    let user : Mode → Mode := fun x => if x = .system then .user else x
    let same : Mode → Mode → RegNum → RegNum → Prop := fun m m' r r' =>
      r = r' ∧ (r.toNat < 8 ∨ (r.toNat < 13 ∧ (m = .fiq ↔ m' = .fiq)) ∨ user m = user m')
    same .fiq .irq 7 7 ∧ ¬ same .fiq .irq 8 8 ∧ same .irq .abort 12 12 ∧ ¬ same .irq .abort 13 13
    ∧ same .user .system 14 14 ∧ ¬ same .user .user 13 14 ∧ (14 : RegNum) ≠ 15 := by decide

/-- The first and the last word of SRAM. -/
theorem test_witness_MemoryIsLittleEndian :
    let ok : Word → Prop := fun a => 0x40 ≤ a.toNat ∧ plainRam a.toNat ∧ a.toNat % 4 = 0
      ∧ intoPrefetch a.toNat last = false ∧ (0x40000004 : Word) ≠ a
    last.memoryLegal = true ∧ ok 0x40000000 ∧ ok 0x4000FFFC ∧ plainMemory (0x40000004 : Word).toNat := by decide

theorem test_witness_VectorRemap :
    (0x3F : Word).toNat < 0x40 ∧ 0x40 ≤ (0x40 : Word).toNat
    ∧ ({ start.sys with memmap := 3 } : SysControl).memmap = 3 := by decide

/-- FIQ; IRQ with FIQ masked, and with no FIQ; both masked; nothing requested. -/
theorem test_witness_InterruptsAtTheBoundary :
    let fiq := requested 31 0x80000000
    let irq := requested 31 0
    let both := { requested 31 0 with
      cpsr := 0x50,
      vic := { start.vic with softInt := 0x80000001, intEnable := 0x80000001, intSelect := 1 } }
    let masked := { requested 31 0 with cpsr := 0xD0 }
    (fiq.env.resetAsked = none ∧ fiq.power = .normal ∧ (atBoundary fiq).vicFiqStatus ≠ 0
      ∧ (atBoundary fiq).fiqDisabled = false)
    ∧ ((atBoundary irq).vicFiqStatus = 0 ∧ (atBoundary irq).eligible 31 = true ∧ (atBoundary irq).irqDisabled = false)
    ∧ ((atBoundary both).fiqDisabled = true ∧ (atBoundary both).eligible 31 = true
      ∧ (atBoundary both).irqDisabled = false)
    ∧ ((atBoundary masked).vicFiqStatus = 0 ∧ (atBoundary masked).irqDisabled = true)
    ∧ ((atBoundary start).vicFiqStatus = 0 ∧ ∀ i, (atBoundary start).eligible i = false)
    ∧ start.env.inputs = []
      ∧ ({ start with env := { start.env with inputs := [{ lines := 1, pins := 0, reset := none }] } } : State).env.inputs
        = [{ lines := 1, pins := 0, reset := none }] := by decide

/-- A state halted in mode `m`, with an IRQ requested if `q`, its wake-up source (BOD, INTWAKE bit 14) enabled. -/
def halted (m : PowerMode) (q masked : Bool) : State :=
  { start with
    power := m, cpsr := if masked then 0xD3 else 0x53, ext := { start.ext with intwake := 0x4000 },
    vic := { start.vic with intEnable := 0x100000 },
    env := { start.env with lines := if q then 0x100000 else 0 } }

/-- The terms of HaltingAndWaking, for a state whose INTWAKE enables the brown-out source alone. -/
def woken (s : State) : State :=
  { atBoundary s with power := .normal, sys := { (atBoundary s).sys with pcon := (atBoundary s).sys.pcon &&& 0x1C } }

def quiet (s : State) : Bool :=
  decide (s.power = .idle ∧ (atBoundary s).vicIrqStatus = 0 ∧ (atBoundary s).vicFiqStatus = 0)
    || decide (s.power ≠ .idle ∧ (atBoundary s).ext.intwake = 0x4000
      ∧ ¬ ((atBoundary s).env.lines.getLsbD 20 = true ∧ s.sys.pcon.getLsbD 3 = false
        ∧ ¬ (s.sys.pcon.getLsbD 2 = true ∧ s.power = .powerDown)))

def fiqNow (s : State) : Bool := decide ((woken s).vicFiqStatus ≠ 0 ∧ (woken s).fiqDisabled = false)

def irqNow (s : State) : Bool := (List.finRange 32).any (woken s).eligible && !(woken s).irqDisabled

/-- For each halting mode: quiet; woken with the interrupt masked; woken with an interrupt taken. In power-down mode with
BODPDM = 1 the brown-out line wakes nothing; a FIQ. -/
theorem test_witness_HaltingAndWaking :
    (∀ m ∈ [PowerMode.idle, .sleep, .powerDown],
      ((halted m false false).env.resetAsked = none ∧ (halted m false false).power ≠ .normal
        ∧ quiet (halted m false false) = true)
      ∧ (quiet (halted m true true) = false ∧ fiqNow (halted m true true) = false ∧ irqNow (halted m true true) = false)
      ∧ quiet (halted m true false) = false ∧ fiqNow (halted m true false) = false ∧ irqNow (halted m true false) = true)
    ∧ quiet { halted .powerDown true false with sys := { start.sys with pcon := 4 } } = true
    ∧ (let s : State := { halted .idle true false with
         cpsr := 0x13, vic := { start.vic with intEnable := 0x100000, intSelect := 0x100000 } }
      quiet s = false ∧ fiqNow s = true) := by decide

/-- Each cause, and a brown-out in power-down mode with BODPDM = 0 and out of it with BODPDM = 1. -/
theorem test_witness_ResetOfTheRunningChip :
    let s : ResetCause → PowerMode → Byte → State := fun c m pcon =>
      { start with
        power := m, sys := { start.sys with pcon := pcon },
        env := { start.env with inputs := [{ lines := 0, pins := 0xF, reset := some c }] } }
    (s .external .sleep 0xFF).env.resetAsked = some .external ∧ (s .watchdog .normal 0xFF).env.resetAsked = some .watchdog
    ∧ (s .brownOut .powerDown 2).env.resetAsked = some .brownOut
    ∧ ((s .brownOut .powerDown 2).sys.pcon.getLsbD 3 = false ∧ (s .brownOut .powerDown 2).sys.pcon.getLsbD 4 = false
      ∧ (s .brownOut .powerDown 2).sys.pcon.getLsbD 2 = false)
    ∧ (s .brownOut .idle 5).sys.pcon.getLsbD 3 = false ∧ (s .brownOut .idle 5).sys.pcon.getLsbD 4 = false
      ∧ (s .brownOut .idle 5).power ≠ .powerDown := by decide

theorem test_witness_VicRegisterWrites :
    (start.mode ≠ .user ∨ start.vic.protection = false)
    ∧ (lastUser.mode = .user ∧ lastUser.vic.protection = false)
    ∧ ({ start with vic := { start.vic with protection := true } } : State).mode ≠ .user := by decide

/-- The last channel alone, two channels of one priority, and none. -/
theorem test_witness_VicWinner :
    let two : State := { start with vic := { start.vic with softInt := 0x80000002, intEnable := 0x80000002 } }
    (requested 31 0).irqWinner = some 31 ∧ (two.irqWinner = some 1 ∧ two.eligible 31 = true)
    ∧ start.irqWinner = none ∧ (∀ i, start.eligible i = false) ∧ (requested 31 0).irqLine = true
    ∧ (start.mode ≠ .user ∧ (requested 31 0).mode = .user ∧ (requested 31 0).vic.protection = false) := by decide

/-- Privileged with a winner and without; User mode with VICProtection 0 and 1; the first and the last register. -/
theorem test_witness_VicAddressAndProtection :
    let p : State := { requested 31 0 with vic := { (requested 31 0).vic with protection := true } }
    ((requested 31 0).vic.protection = false ∧ (requested 31 0).irqWinner = some 31
      ∧ ((requested 31 0).vic.vectPriority[31]).toNat ≤ ((requested 31 0).vic.vectPriority[0]).toNat)
    ∧ (start.mode ≠ .user ∧ start.irqWinner = none) ∧ ((requested 31 0).mode = .user)
    ∧ p.mode = .user ∧ p.vic.protection = true ∧ VicReg.ofOffset 0 = some .irqStatus
      ∧ VicReg.ofOffset 0xF00 = some .address ∧ VicReg.ofOffset 0x27C = some (.vectPriority 31) := by decide

/-- The feed, a value that is not 0xAA with the feed not armed, and the armed feed with the PLL off and with it unchanged. -/
theorem test_witness_PllFeedSequence :
    (0xFFFFFFAA : Word).extractLsb' 0 8 = 0xAA ∧ (0xFFFFFF55 : Word).extractLsb' 0 8 = 0x55
    ∧ ((0xFFFFFFAB : Word).extractLsb' 0 8 ≠ 0xAA ∧ start.sys.feedArmed = false)
    ∧ (start.sys.pllCfgEff &&& 0xFF008000 = 0 ∧ start.sys.pllConEff.getLsbD 0 = false)
    ∧ ({ start.sys with feedArmed := true } : SysControl).pllcon.getLsbD 0 = false
    ∧ ({ start.sys with feedArmed := true, pllcon := 3, pllConEff := 1 } : SysControl).pllConEff.getLsbD 0 = true
      ∧ start.sys.pllcfg = start.sys.pllCfgEff ∧ start.sys.pllWait = 0 := by decide

/-- Reserved and other field values; a clock switch with the PLL connected; each combination of PM2, PM1 and PM0; OSCEN. -/
theorem test_witness_SystemRegisterWrites :
    let pm : Word → Bool × Bool × Bool := fun v => (v.getLsbD 7, v.getLsbD 1, v.getLsbD 0)
    (3 : Word).extractLsb' 0 2 = 3 ∧ (2 : Word).extractLsb' 0 2 ≠ 3 ∧ (8 : Word).extractLsb' 0 3 = 0
    ∧ ((2 : Word).extractLsb' 0 2 ≠ start.sys.clksrcsel
      ∧ ({ start.sys with pllConEff := 2 } : SysControl).pllConEff.getLsbD 1 = true
      ∧ start.sys.pllConEff.getLsbD 1 = false)
    ∧ [0x1C, 0x01, 0x81, 0x02, 0x03, 0x80, 0x82, 0x83].map pm
      = [(false, false, false), (false, false, true), (true, false, true), (false, true, false), (false, true, true),
        (true, false, false), (true, true, false), (true, true, true)]
    ∧ (start.sys.scs.getLsbD 5 = false ∧ start.sys.scs.getLsbD 6 = false ∧ start.sys.oscWait = 0)
    ∧ ({ start.sys with scs := 0x20 } : SysControl).scs.getLsbD 5 = true := by decide

/-- The EMC powered and not; the first and the last register and a gap of each block; a mode bit kept and one changed. -/
theorem test_witness_PinAndInterruptRegisterWrites :
    start.sys.pconp.getLsbD 11 = true ∧ ({ start.sys with pconp := 0 } : SysControl).pconp.getLsbD 11 = false
    ∧ (emcIndex 0 = some 0 ∧ (emcIndex 0x880).isSome = true ∧ emcIndex 0x00C = none ∧ emcIndex 0x3FFC = none)
    ∧ ((0 : Fin 11) ≠ 10 ∧ (9 : Fin 11) ≠ 10)
    ∧ (1 : Word).getLsbD 3 = start.ext.extmode.getLsbD 3 ∧ (1 : Word).getLsbD 0 ≠ start.ext.extmode.getLsbD 0 := by decide

/-- R492: with BOGD = 1, or BODPDM = 1 in power-down mode, the brown-out line requests nothing and resets nothing. -/
theorem test_brownOut_detection_off :
    let s : Byte → PowerMode → State := fun pcon m =>
      { start with power := m, sys := { start.sys with pcon := pcon }, env := { start.env with lines := 0x100000 } }
    ((s 0 .normal).requests = 0x100000 ∧ (s 8 .normal).requests = 0 ∧ (s 4 .powerDown).requests = 0
      ∧ (s 4 .sleep).requests = 0x100000 ∧ (s 0x10 .normal).requests = 0x100000)
    ∧ resetEffective .brownOut (s 0 .normal) = true ∧ resetEffective .brownOut (s 8 .normal) = false
    ∧ resetEffective .brownOut (s 0x10 .normal) = false := by decide

/-- R371, R27: a return to Thumb state completes for an odd target, with an even PC; one to ARM state stops. -/
theorem test_return_odd_target :
    (match exec (.movImm .al true 15 { rot := 0, imm8 := 1 }) lastIrq with
      | .next t => t.thumb && t.mode == .user
      | .fault _ => false
      | .refused _ => false) = true
    ∧ (match exec (.movImm .al true 15 { rot := 0, imm8 := 2 }) last with
      | .next _ => none
      | .fault f => some f
      | .refused _ => none) = some .misalignedPc := by decide

/-- R85, R83: the unused addresses of the VIC's slot read and refuse a write, those below the slot abort. -/
theorem test_gap_below_vic :
    ((given (memRead 0xFFFFC000 .word start)).isSome = true ∧ stopped (memWrite 0xFFFFEFFC .word 0 start) = true)
    ∧ aborted (memRead 0xFFFFBFFC .word start) = true ∧ aborted (memWrite 0xFFFFBFFC .word 0 start) = true :=
  ⟨⟨by decide, by decide⟩, by decide, by decide⟩

end Sys2Proof.Tests
end

section
/-! PROOFS. One step, from the boundary to the meaning of the decoded instruction (00_scope.md R12), with the User-bank LDM
hazard (70_reset_and_hazards.md R652) of each instruction. -/
namespace Sys2Proof.Machine

/-! ### The stages of a step -/

/-- Once the boundary lets an instruction run, the step is the running of that instruction. -/
theorem step_of_boundary_run {s s1 : State} (hb : boundary s = .run s1) : step s = runNext s1 := by
  simp only [step, stepOnce, hb]

/-- In ARM state, a fetched word is run. -/
theorem runNext_of_fetch {st st' : State} {w : Word} (harm : st.thumb = false) (hf : fetch st = .ok w st') :
    runNext st = runWord w st' := by
  simp only [runNext, harm, hf, Bool.false_eq_true, if_false]

/-- A fetch from an aligned address in a memory gives the little-endian word there (R71, R78). -/
theorem fetch_memory {st : State} {p : Nat} (hp : remap st.sys.memmap st.pc = some p) (hm : plainMemory p)
    (h4 : p % 4 = 0) : fetch st = .ok (st.wordAt p) st := by
  have hword : st.bytesAt p 4 = st.wordAt p := bytesAt_four st p
  simp [fetch, hp, hm, h4, externalUnpowered_false, hword]

/-- A word that decodes is run as the instruction it decodes to. -/
theorem runWord_of_decode {w : Word} {i : Instr} (hd : decodeWord w = .ok i) (st : State) :
    runWord w st = runInstr i st := by
  have hb : decodeBytes (wordBytes w) = .ok (i, []) := by
    have h := decodeBytes_wordBytes w []
    rwa [List.append_nil, hd] at h
  simp only [runWord, hb]

theorem runInstr_of_bankHazard {i : Instr} {st : State} (h : bankHazard i st = true) :
    runInstr i st = .refused .bankedRegisterAfterUserLdm := by
  simp only [runInstr, h, if_true]

theorem runInstr_of_no_bankHazard {i : Instr} {st : State} (h : bankHazard i st = false) :
    runInstr i st = exec i { st with userBankLdm := false } := by
  simp only [runInstr, h, Bool.false_eq_true, if_false]

/-- The stages together: a step in ARM state runs the instruction that the word at the PC decodes to. -/
theorem step_eq_runInstr {s s1 : State} {p : Nat} {i : Instr} (hb : boundary s = .run s1) (harm : s1.thumb = false)
    (hp : remap s1.sys.memmap s1.pc = some p) (hm : plainMemory p) (h4 : p % 4 = 0)
    (hd : decodeWord (s1.wordAt p) = .ok i) : step s = runInstr i s1 :=
  calc step s = runNext s1 := step_of_boundary_run hb
    _ = runWord (s1.wordAt p) s1 := runNext_of_fetch harm (fetch_memory hp hm h4)
    _ = runInstr i s1 := runWord_of_decode hd s1

/-! ### The User-bank LDM hazard -/

/-- The model's "from R8 up but not R15" for FIQ mode is R13, R14 and the R8 to R12 that R652 lists. -/
theorem bankedIn_eq (m : Mode) (r : RegNum) :
    bankedIn m r = decide (r = 13 ∨ r = 14 ∨ (m = .fiq ∧ 8 ≤ r.toNat ∧ r.toNat ≤ 12)) := by
  have hrange : ∀ r : RegNum, 8 ≤ r.toNat ∧ r ≠ 15 ↔ r = 13 ∨ r = 14 ∨ (8 ≤ r.toNat ∧ r.toNat ≤ 12) := by decide
  rw [Bool.eq_iff_iff]
  simp only [bankedIn, Bool.or_eq_true, Bool.and_eq_true, beq_iff_eq, bne_iff_ne, decide_eq_true_eq, and_assoc, hrange]
  tauto

/-- The hazard of R652 for an instruction with condition `cond` that names the registers `names`. -/
def hazardMet (s : State) (cond : Option Cond) (names : List RegNum) : Bool :=
  s.userBankLdm && (cond.all fun c => s.passes c)
    && names.any fun r => decide (r = 13 ∨ r = 14 ∨ (s.mode = .fiq ∧ 8 ≤ r.toNat ∧ r.toNat ≤ 12))

/-- The hazard depends on the instruction through its condition and the registers it names only. -/
theorem bankHazard_eq_hazardMet (i : Instr) (s : State) : bankHazard i s = hazardMet s i.cond? (namedRegs i) := by
  have hbanked : bankedIn s.mode
      = fun r => decide (r = 13 ∨ r = 14 ∨ (s.mode = .fiq ∧ 8 ≤ r.toNat ∧ r.toNat ≤ 12)) := funext (bankedIn_eq s.mode)
  simp only [bankHazard, hazardMet, hbanked]

/-- Instructions that share their condition and the registers they name share their hazard. -/
theorem bankHazard_of_family {family : List Instr} {s : State} {cond : Option Cond} {names : List RegNum}
    (h : family.map (fun i => (i.cond?, namedRegs i)) = List.replicate family.length (cond, names)) :
    ∀ i ∈ family, bankHazard i s = hazardMet s cond names := by
  intro i hi
  obtain ⟨hcond, hnames⟩ := Prod.mk.inj (List.map_eq_replicate_iff.mp h i hi)
  rw [bankHazard_eq_hazardMet, hcond, hnames]

/-- Settles O12: the stages of the step composed, and for each family of the table the condition and the registers named
read off its instructions. -/
theorem stepRunsTheDecodedInstruction : Obligations.StepRunsTheDecodedInstruction := by
  unfold Obligations.StepRunsTheDecodedInstruction
  constructor
  · intro s s1 p i hb harm hp hm h4 hd
    have hstep : step s = runInstr i s1 := step_eq_runInstr hb harm hp hm h4 hd
    exact ⟨fun h => hstep.trans (runInstr_of_no_bankHazard h), fun h => hstep.trans (runInstr_of_bankHazard h)⟩
  · intro s c sb p u w rn rd rs rm imm imm2 si sr i8 i12 list off op1 crn crd cp crm k1 op2 hi value met
    have table {family : List Instr} {cond : Option Cond} {names : List RegNum}
        (h : family.map (fun i => (i.cond?, namedRegs i)) = List.replicate family.length (cond, names)) :
        ∀ i ∈ family, bankHazard i s = met cond names := bankHazard_of_family h
    refine ⟨?dataImm, ?dataShiftImm, ?dataShiftReg, ?destinationOnly, ?moveShiftImm, ?moveShiftReg, ?baseOnly,
      ?compareShiftImm, ?compareShiftReg, ?mul, ?longMultiply, ?transferImm, ?transferReg, ?transferShifted, ?block,
      ?sourceOnly, ?noRegister, ?blxImm, ?bkpt, ?nop⟩
    case blxImm | bkpt | nop => exact bankHazard_eq_hazardMet _ s
    all_goals exact table rfl

end Sys2Proof.Machine
end

section
/-! PROOFS. The bank table (10_state.md R24, R25): which registers of two modes are one physical register, and what a
write to one of them shows through the other. -/
namespace Sys2Proof.Machine

/-- How far a mode's own R13 and R14 stand above those of the User bank in `State.regs`. -/
def Mode.stackBankOffset : Mode → Nat
  | .user | .system => 0
  | .fiq => 7
  | .irq => 9
  | .supervisor => 11
  | .abort => 13
  | .undefined => 15

/-- The bank table in three rows: R0 to R7 of every mode, R8 to R12 of FIQ mode or of the others, R13 and R14. -/
theorem physIndex_val (m : Mode) (r : RegNum) (hr : r.toNat < 15) :
    (physIndex m r).val
      = if r.toNat < 8 then r.toNat
        else if r.toNat < 13 then (if m = .fiq then r.toNat + 7 else r.toNat)
        else r.toNat + m.stackBankOffset := by
  cases m <;> simp only [physIndex, Mode.stackBankOffset, reduceCtorEq, if_true, if_false] <;> split_ifs <;>
    simp only [Fin.ofNat] <;> omega

/-- Two banks of R13 and R14 are the same one or do not overlap, and neither reaches down into R8 to R12 of FIQ mode. -/
theorem stackBankOffset_apart (m m' : Mode) :
    (m.stackBankOffset = m'.stackBankOffset ∨ m.stackBankOffset + 2 ≤ m'.stackBankOffset
      ∨ m'.stackBankOffset + 2 ≤ m.stackBankOffset)
    ∧ (m.stackBankOffset = 0 ∨ 7 ≤ m.stackBankOffset) := by
  cases m <;> cases m' <;> decide

/-- User and System share their R13 and R14; every other mode has its own. -/
theorem stackBankOffset_eq_iff (m m' : Mode) :
    m.stackBankOffset = m'.stackBankOffset
      ↔ (if m = .system then .user else m) = if m' = .system then Mode.user else m' := by
  cases m <;> cases m' <;> decide

/-- Only FIQ mode has its R13 and R14 seven places up, so the offset tells FIQ mode from the others. -/
theorem fiq_iff_stackBankOffset (m : Mode) : m = .fiq ↔ m.stackBankOffset = 7 := by
  cases m <;> decide

/-- Below R15, the number of a register is below 15. -/
theorem toNat_lt_of_ne_pc {r : RegNum} (h : r ≠ 15) : r.toNat < 15 := by bv_omega

/-- Two registers are one physical register exactly if they have the same number and their modes share its bank. -/
theorem physIndex_eq_iff {m m' : Mode} {r r' : RegNum} (hr : r ≠ 15) (hr' : r' ≠ 15) :
    physIndex m r = physIndex m' r'
      ↔ r = r' ∧ (r.toNat < 8 ∨ (r.toNat < 13 ∧ (m = .fiq ↔ m' = .fiq))
          ∨ (if m = .system then .user else m) = if m' = .system then Mode.user else m') := by
  have hlt := toNat_lt_of_ne_pc hr
  have hlt' := toNat_lt_of_ne_pc hr'
  obtain ⟨hapart, hlow⟩ := stackBankOffset_apart m m'
  obtain ⟨-, hlow'⟩ := stackBankOffset_apart m' m
  rw [Fin.ext_iff, physIndex_val m r hlt, physIndex_val m' r' hlt', ← stackBankOffset_eq_iff, BitVec.toNat_eq]
  simp only [fiq_iff_stackBankOffset]
  split_ifs <;> omega

/-- A write to a register is read through every name of that physical register and through no other. -/
theorem regIn_setRegIn (st : State) {m m' : Mode} {r r' : RegNum} (v : Word) (hr : r ≠ 15) (hr' : r' ≠ 15) :
    (st.setRegIn m r v).regIn m' r' = if physIndex m r = physIndex m' r' then v else st.regIn m' r' := by
  rw [regIn_of_ne _ _ _ hr', regIn_of_ne _ _ _ hr', setRegIn_regs _ _ _ _ hr]
  simp only [Fin.getElem_fin, Vector.getElem_set, Fin.ext_iff]

/-- Settles O48: the bank table decides whether the two names have one index, and a write shows through that index only. -/
theorem registerBanks : Obligations.RegisterBanks := by
  unfold Obligations.RegisterBanks
  intro s m m' r r' v hr hr' user same
  have hsame : physIndex m r = physIndex m' r' ↔ same := physIndex_eq_iff hr hr'
  refine ⟨fun h => ?_, fun h => ?_, setRegIn_pc s m r v hr⟩
  · rw [regIn_setRegIn s v hr hr', if_pos (hsame.mpr h)]
  · rw [regIn_setRegIn s v hr hr', if_neg (mt hsame.mp h)]

end Sys2Proof.Machine
end

section
/-! PROOFS. The parts of the invariant of the machine (`State.legal`), and the operations on registers, flags and the PC that
keep it (10_state.md R27, R35). -/
namespace Sys2Proof.Machine

/-! ### The parts of the invariant -/

theorem legal_iff {st : State} :
    st.legal = true ↔ st.memoryLegal = true ∧ st.modeLegal = true ∧ st.pcAligned = true ∧ st.controlLegal = true := by
  simp only [State.legal, Bool.and_eq_true, and_assoc]

theorem memoryLegal_iff {st : State} : st.memoryLegal = true ↔ st.mem.wf = true ∧ st.pendingInSram = true := by
  simp only [State.memoryLegal, Bool.and_eq_true]

theorem controlLegal_iff {st : State} :
    st.controlLegal = true ↔ st.sys.mamcr ≠ 3 ∧ st.sys.mamtim ≠ 0 ∧ st.sys.memmap ≠ 3 ∧ st.sys.clksrcsel ≠ 3
      ∧ pconMode (st.sys.pcon.setWidth 32) = some st.power := by
  simp only [State.controlLegal, Bool.and_eq_true, bne_iff_ne, beq_iff_eq, and_assoc]

/-- A legal state stays legal under a status word with a legal mode and a PC aligned for it. -/
theorem legal_of_status {st : State} (hs : st.legal = true) {psr pc : Word} (hmode : (modeOf psr).isSome = true)
    (hpc : alignedFor psr pc = true) : ({ st with cpsr := psr, pc := pc } : State).legal = true := by
  obtain ⟨hmem, -, -, hcontrol⟩ := legal_iff.mp hs
  exact legal_iff.mpr ⟨hmem, hmode, hpc, hcontrol⟩

/-- A legal state stays legal under control registers without a reserved value that name the power mode. -/
theorem legal_of_control {st : State} (hs : st.legal = true) {sys : SysControl} {power : PowerMode}
    (hcontrol : ({ st with sys := sys, power := power } : State).controlLegal = true) :
    ({ st with sys := sys, power := power } : State).legal = true := by
  obtain ⟨hmem, hmode, hpc, -⟩ := legal_iff.mp hs
  exact legal_iff.mpr ⟨hmem, hmode, hpc, hcontrol⟩

/-- An outcome whose next state, if there is one, is legal. -/
def LegalResult : Result → Prop
  | .next t => t.legal = true
  | .fault _ => True
  | .refused _ => True

/-- An access that leaves a legal state, whether it succeeds or aborts. -/
def LegalAccess {α : Type} : Access α → Prop
  | .ok _ t => t.legal = true
  | .abort t => t.legal = true
  | .stop _ => True

theorem legalResult_of_next {r : Result} (h : ∀ t, r = .next t → t.legal = true) : LegalResult r := by
  cases r with
  | next t => exact h t rfl
  | fault f => trivial
  | refused why => trivial

/-- A check that stops the machine leaves the access to the case where it does not. -/
theorem legalAccess_guard {α : Type} {c : Prop} [Decidable c] {f : Fault} {r : Access α} (h : ¬ c → LegalAccess r) :
    LegalAccess (if c then .stop f else r) := by
  split
  · trivial
  · next hc => exact h hc

/-- A check that stops the machine leaves the outcome to the case where it does not. -/
theorem legalResult_guard {c : Prop} [Decidable c] {f : Fault} {r : Result} (h : ¬ c → LegalResult r) :
    LegalResult (if c then .fault f else r) := by
  split
  · trivial
  · next hc => exact h hc

/-! ### The alignment of the PC -/

theorem getLsbD_zero_eq_false_iff {v : Word} : v.getLsbD 0 = false ↔ v.toNat % 2 = 0 := by
  rw [BitVec.getLsbD, Nat.testBit_zero, decide_eq_false_iff_not]
  omega

theorem extractLsb_two_eq_zero_iff {v : Word} : v.extractLsb' 0 2 = 0 ↔ v.toNat % 4 = 0 := by
  rw [BitVec.toNat_eq, BitVec.extractLsb'_toNat]
  simp

theorem alignedFor_iff {psr v : Word} :
    alignedFor psr v = true ↔ v.toNat % 2 = 0 ∧ (psr.getLsbD 5 = false → v.toNat % 4 = 0) := by
  unfold alignedFor
  split
  · next ht => rw [Bool.not_eq_true', getLsbD_zero_eq_false_iff]; simp [-BitVec.getLsbD_eq_getElem, ht]
  · next ht =>
    rw [beq_iff_eq, extractLsb_two_eq_zero_iff]
    have : psr.getLsbD 5 = false := by simpa using ht
    exact ⟨fun h => ⟨by omega, fun _ => h⟩, fun h => h.2 this⟩

/-- The alignment asked for depends on the status word through its T bit only. -/
theorem alignedFor_congr {psr psr' : Word} (h : psr.getLsbD 5 = psr'.getLsbD 5) (v : Word) :
    alignedFor psr v = alignedFor psr' v := by
  simp only [alignedFor, h]

/-- A word-aligned PC is aligned in either state. -/
theorem alignedFor_of_word {v : Word} (h : v.extractLsb' 0 2 = 0) (psr : Word) : alignedFor psr v = true := by
  have h4 := extractLsb_two_eq_zero_iff.mp h
  exact alignedFor_iff.mpr ⟨by omega, fun _ => h4⟩

theorem alignedFor_add_four {psr v : Word} (h : alignedFor psr v = true) : alignedFor psr (v + 4) = true := by
  obtain ⟨h2, h4⟩ := alignedFor_iff.mp h
  have hsum : (v + 4).toNat = (v.toNat + 4) % 2 ^ 32 := BitVec.toNat_add v 4
  exact alignedFor_iff.mpr ⟨by omega, fun ht => by have := h4 ht; omega⟩

theorem extractLsb_two_of_bits {v : Word} (h0 : v.getLsbD 0 = false) (h1 : v.getLsbD 1 = false) :
    v.extractLsb' 0 2 = 0 := by
  apply BitVec.eq_of_getLsbD_eq
  intro i hi
  obtain rfl | rfl : i = 0 ∨ i = 1 := by omega
  · simpa using h0
  · simpa using h1

theorem toNat_add_even {a b : Word} (ha : a.toNat % 2 = 0) (hb : b.toNat % 2 = 0) : (a + b).toNat % 2 = 0 := by
  rw [BitVec.toNat_add]
  omega

theorem toNat_shiftLeft_even (v : Word) {n : Nat} (hn : 0 < n) : (v <<< n).toNat % 2 = 0 := by
  rw [← getLsbD_zero_eq_false_iff, BitVec.getLsbD_shiftLeft]
  simp [hn]

theorem toNat_clearBit_even (v : Word) : (v &&& 0xFFFFFFFE).toNat % 2 = 0 := by
  rw [← getLsbD_zero_eq_false_iff]
  simp

/-- The target of BLX is even at an even PC, whatever its H bit (R315). -/
theorem blxImm_target_even {pc : Word} (h : pc.toNat % 2 = 0) (imm : BitVec 24) (b : Bool) :
    (branchTarget pc imm + ((BitVec.ofBool b).setWidth 32 <<< 1)).toNat % 2 = 0 :=
  toNat_add_even
    (toNat_add_even (toNat_add_even h (by decide)) (toNat_shiftLeft_even _ (by decide)))
    (toNat_shiftLeft_even _ (by decide))

/-! ### The mode and the T bit of a status word -/

theorem modeOf_withFlags (psr : Word) (f : Flags) : modeOf (withFlags psr f) = modeOf psr := by
  unfold modeOf withFlags
  rw [extract_append_low _ _ 0 5 (by omega), BitVec.extractLsb'_extractLsb'_of_le (by omega)]

theorem withFlags_thumb (psr : Word) (f : Flags) : (withFlags psr f).getLsbD 5 = psr.getLsbD 5 := by
  unfold withFlags
  rw [getLsbD_append_low _ _ 5 (by omega)]
  simp

theorem modeOf_withThumb (psr : Word) (t : Bool) : modeOf (withThumb psr t) = modeOf psr := by
  unfold modeOf withThumb
  rw [extract_append_low _ _ 0 5 (by omega), extract_all]

theorem withThumb_thumb (psr : Word) (t : Bool) : (withThumb psr t).getLsbD 5 = t := by
  unfold withThumb
  rw [getLsbD_append_high _ _ 5 (by omega), getLsbD_append_low _ _ _ (by omega)]
  exact bit_getLsbD t

theorem Mode.ofBits_bits (m : Mode) : Mode.ofBits m.bits = some m := by cases m <;> rfl

theorem modeOf_entryCpsr (e : Exception) (psr : Word) : modeOf (entryCpsr e psr) = some e.mode := by
  unfold modeOf entryCpsr
  rw [extract_append_low _ _ 0 5 (by omega), extract_all, Mode.ofBits_bits]

/-- An even target is aligned for Thumb state. -/
theorem alignedFor_withThumb_true {psr v : Word} (h : v.toNat % 2 = 0) : alignedFor (withThumb psr true) v = true :=
  alignedFor_iff.mpr ⟨h, fun ht => absurd ht (by simp only [withThumb_thumb, Bool.true_eq_false, not_false_eq_true])⟩

/-! ### Registers, flags and the PC -/

theorem setRegIn_legal {st : State} (hs : st.legal = true) (m : Mode) {r : RegNum} (hr : r ≠ 15) (v : Word) :
    (st.setRegIn m r v).legal = true := by
  have hpc : (st.setRegIn m r v).pcAligned = st.pcAligned := by
    simp only [State.pcAligned, setRegIn_cpsr, setRegIn_pc _ _ _ _ hr]
  obtain ⟨hmem, hmode, haligned, hcontrol⟩ := legal_iff.mp hs
  exact legal_iff.mpr ⟨hmem, hmode, hpc.trans haligned, hcontrol⟩

theorem setReg_legal {st : State} (hs : st.legal = true) {r : RegNum} (hr : r ≠ 15) (v : Word) :
    (st.setReg r v).legal = true :=
  setRegIn_legal hs st.mode hr v

theorem linkReturn_legal {st : State} (hs : st.legal = true) : (linkReturn st).legal = true :=
  setReg_legal hs (by decide) _

theorem setFlags_legal {st : State} (hs : st.legal = true) (f : Flags) : (st.setFlags f).legal = true := by
  obtain ⟨-, hmode, hpc, -⟩ := legal_iff.mp hs
  exact legal_of_status hs ((congrArg Option.isSome (modeOf_withFlags st.cpsr f)).trans hmode)
    ((alignedFor_congr (withFlags_thumb st.cpsr f) st.pc).trans hpc)

theorem writeBase_legal {st : State} (hs : st.legal = true) {rn : RegNum} {wb : Option Word}
    (hrn : wb.isSome = true → rn ≠ 15) : (writeBase rn wb st).legal = true := by
  cases wb with
  | none => exact hs
  | some v => exact setReg_legal hs (hrn rfl) v

theorem advance_legal {st : State} (hs : st.legal = true) : LegalResult (advance st) := by
  obtain ⟨-, hmode, hpc, -⟩ := legal_iff.mp hs
  refine legalResult_of_next fun t h => ?_
  obtain ⟨-, rfl⟩ := advance_next.mp h
  exact legal_of_status hs hmode (alignedFor_add_four hpc)

theorem branchTo_legal {st : State} (hs : st.legal = true) (v : Word) : LegalResult (branchTo v st) := by
  obtain ⟨-, hmode, -, -⟩ := legal_iff.mp hs
  refine legalResult_of_next fun t h => ?_
  obtain ⟨hv, rfl⟩ := branchTo_next.mp h
  exact legal_of_status hs hmode (alignedFor_of_word hv st.cpsr)

theorem branchExchange_legal {st : State} (hs : st.legal = true) (v : Word) : LegalResult (branchExchange v st) := by
  obtain ⟨-, hmode, -, -⟩ := legal_iff.mp hs
  have hmode' (t : Bool) : (modeOf (withThumb st.cpsr t)).isSome = true :=
    (congrArg Option.isSome (modeOf_withThumb st.cpsr t)).trans hmode
  refine legalResult_of_next fun t h => ?_
  obtain ⟨-, rfl⟩ | ⟨h0, h1, rfl⟩ := branchExchange_next h
  · exact legal_of_status hs (hmode' true) (alignedFor_withThumb_true (toNat_clearBit_even v))
  · exact legal_of_status hs (hmode' false) (alignedFor_of_word (extractLsb_two_of_bits h0 h1) _)

theorem exceptionReturn_legal {st : State} (hs : st.legal = true) (v : Word) : LegalResult (exceptionReturn v st) := by
  refine legalResult_of_next fun t h => ?_
  obtain ⟨psr, -, hmode, hpc, ⟨-, rfl⟩ | ⟨-, -, rfl⟩⟩ := exceptionReturn_next h
  · exact legal_of_status hs hmode hpc
  · exact legal_of_status (st := st.drawn) hs hmode hpc

theorem takeException_legal {st : State} (hs : st.legal = true) (e : Exception) :
    (takeException e st).legal = true := by
  obtain ⟨hmem, -, -, hcontrol⟩ := legal_iff.mp hs
  have hvector : e.vector.extractLsb' 0 2 = 0 := by cases e <;> decide
  exact legal_iff.mpr ⟨hmem, congrArg Option.isSome (modeOf_entryCpsr e st.cpsr), alignedFor_of_word hvector _, hcontrol⟩

theorem conditional_legal {c : Cond} {i : Instr} {st : State} {act : State → Result} (hs : st.legal = true)
    (hact : i.illFormed = none → LegalResult (act st)) : LegalResult (conditional c i st act) := by
  unfold conditional
  split
  · split
    · trivial
    · next hi => exact hact hi
  · exact advance_legal hs

end Sys2Proof.Machine
end

section
/-! PROOFS. Every memory access and every device write keeps the invariant (20_memory.md R92, 60_exceptions.md R492,
92_eei_decisions.md D26). -/
namespace Sys2Proof.Machine

/-! ### Memory accesses -/

theorem AfterRead.legal {st t : State} (h : AfterRead st t) (hs : st.legal = true) : t.legal = true := by
  obtain ⟨_, _, _, _, rfl⟩ := h
  exact hs

theorem memRead_legal {st : State} (hs : st.legal = true) (a : Word) (w : Width) : LegalAccess (memRead a w st) := by
  cases h : memRead a w st with
  | ok v t => exact (memRead_ok h).legal hs
  | abort t =>
    obtain ⟨p, -, rfl⟩ := memRead_abort h
    exact hs
  | stop f => trivial

/-- An aligned access that starts in the SRAM ends in it, since the SRAM is a whole number of words. -/
theorem alignAddress_sram {w : Width} {p q : Nat} (hp : regionOf p = .sram) (hq : alignAddress w p = some q) :
    0x40000000 ≤ q ∧ q + w.bytes ≤ 0x40010000 := by
  have hrange := regionOf_sram.mp hp
  obtain ⟨hq, -⟩ := alignAddress_some hq
  cases w <;> simp only [Width.bytes] at hq ⊢ <;> omega

/-- A store keeps the state legal if a datum for the write-back buffer lies in the SRAM. -/
theorem storeMemory_legal {st : State} (hs : st.legal = true) {r : Region} {q : Nat} {w : Width} (v : Word)
    (hq : r = .sram → 0x40000000 ≤ q ∧ q + w.bytes ≤ 0x40010000) : (storeMemory r q w v st).legal = true := by
  obtain ⟨hmem, hmode, hpc, hcontrol⟩ := legal_iff.mp hs
  obtain ⟨hwf, hpending⟩ := memoryLegal_iff.mp hmem
  have hpending' : (storeMemory r q w v st).pendingInSram = true := by
    by_cases hr : r = .sram
    · simp only [State.pendingInSram, storeMemory, hr, if_true, Bool.and_eq_true, decide_eq_true_eq]
      exact hq hr
    · simpa only [State.pendingInSram, storeMemory, hr, if_false] using hpending
  exact legal_iff.mpr ⟨memoryLegal_iff.mpr ⟨storeMemory_wf r q w v st hwf, hpending'⟩, hmode, hpc, hcontrol⟩

/-! ### Device writes -/

theorem pconMode_stored (v : Word) : pconMode ((v.extractLsb' 0 8 &&& 0x9F).setWidth 32) = pconMode v := by
  simp [pconMode]

theorem pconMode_woken (p : Byte) : pconMode ((p &&& 0x1C).setWidth 32) = some .normal := by
  simp [pconMode]

theorem writePcon_legal {st : State} (hs : st.legal = true) (v : Word) : LegalAccess (writePcon v st) := by
  obtain ⟨-, -, -, hcontrol⟩ := legal_iff.mp hs
  obtain ⟨hmamcr, hmamtim, hmemmap, hclk, -⟩ := controlLegal_iff.mp hcontrol
  unfold writePcon
  split
  · trivial
  · next m hm =>
    exact legal_of_control hs (controlLegal_iff.mpr ⟨hmamcr, hmamtim, hmemmap, hclk, (pconMode_stored v).trans hm⟩)

theorem writePllfeed_legal {st : State} (hs : st.legal = true) (v : Word) : (writePllfeed v st).legal = true := by
  unfold writePllfeed
  split
  · exact hs
  split
  · exact hs
  · exact hs

/-- A reserved field value stops the machine, PCON is stored with the mode it selects, and the other registers of the
block are not part of the invariant. -/
theorem writeSysReg_legal {st : State} (hs : st.legal = true) (r : SysReg) (v : Word) :
    LegalAccess (writeSysReg r v st) := by
  obtain ⟨-, -, -, hcontrol⟩ := legal_iff.mp hs
  obtain ⟨hmamcr, hmamtim, hmemmap, hclk, hpcon⟩ := controlLegal_iff.mp hcontrol
  cases r
  case mamcr =>
    exact legalAccess_guard fun hv =>
      legal_of_control hs (controlLegal_iff.mpr ⟨hv, hmamtim, hmemmap, hclk, hpcon⟩)
  case mamtim =>
    exact legalAccess_guard fun hv =>
      legal_of_control hs (controlLegal_iff.mpr ⟨hmamcr, hv, hmemmap, hclk, hpcon⟩)
  case memmap =>
    exact legalAccess_guard fun hv =>
      legal_of_control hs (controlLegal_iff.mpr ⟨hmamcr, hmamtim, hv, hclk, hpcon⟩)
  case clksrcsel =>
    exact legalAccess_guard fun hv => legalAccess_guard fun _ =>
      legal_of_control hs (controlLegal_iff.mpr ⟨hmamcr, hmamtim, hmemmap, hv, hpcon⟩)
  case pcon => exact writePcon_legal hs v
  case pllfeed => exact writePllfeed_legal hs v
  all_goals exact hs

theorem writeSystem_legal {st : State} (hs : st.legal = true) (off : Nat) (v : Word) :
    LegalAccess (writeSystem off v st) := by
  unfold writeSystem
  split
  · trivial
  · exact writeSysReg_legal hs _ v

theorem writePins_legal {st : State} (hs : st.legal = true) (off : Nat) (v : Word) :
    LegalAccess (writePins off v st) := by
  unfold writePins
  split
  · exact hs
  split
  · exact hs
  split
  · exact hs
  · trivial

theorem writeEmc_legal {st : State} (hs : st.legal = true) (off : Nat) (v : Word) :
    LegalAccess (writeEmc off v st) := by
  unfold writeEmc
  split
  · trivial
  split
  · trivial
  split
  · exact hs
  · exact hs

theorem writeVic_legal {st : State} (hs : st.legal = true) (off : Nat) (v : Word) :
    LegalAccess (writeVic off v st) := by
  unfold writeVic
  split
  · trivial
  split
  · exact hs
  · exact hs

theorem writeDevice_legal {st : State} (hs : st.legal = true) (r : Region) (p : Nat) (v : Word) :
    LegalAccess (writeDevice r p v st) := by
  rcases writeDevice_cases r p v st with h | ⟨off, h⟩ | ⟨off, h⟩ | ⟨off, h⟩ | ⟨-, off, h⟩ <;> rw [h]
  · trivial
  · exact writePins_legal hs off v
  · exact writeSystem_legal hs off v
  · exact writeEmc_legal hs off v
  · exact writeVic_legal hs off v

theorem memWrite_legal {st : State} (hs : st.legal = true) (a : Word) (w : Width) (v : Word) :
    LegalAccess (memWrite a w v st) := by
  cases h : memWrite a w v st with
  | ok u t =>
    obtain ⟨p, q, -, -, hq, -, rfl⟩ | ⟨p, armed, -, -, -, hd⟩ := memWrite_ok h
    · exact storeMemory_legal hs v fun hp => alignAddress_sram hp hq
    · have hlegal := writeDevice_legal
        (st := { st with sys := { st.sys with feedArmed := armed } }) hs (regionOf p) p v
      rwa [hd] at hlegal
  | abort t => exact (memWrite_abort h).legal hs
  | stop f => trivial

end Sys2Proof.Machine
end

section
/-! PROOFS. The common executions of the instruction families keep the invariant. -/
namespace Sys2Proof.Machine

/-! ### Data processing and multiplies -/

theorem writeAlu_legal {st : State} (hs : st.legal = true) (s : Bool) (rd : RegNum) (r : AluResult) :
    LegalResult (writeAlu s rd r st) := by
  unfold writeAlu
  split
  · split
    · exact exceptionReturn_legal hs r.value
    · exact branchTo_legal hs r.value
  · next hrd =>
    have hflags : (if s then st.setFlags r.flags else st).legal = true := by
      split
      · exact setFlags_legal hs r.flags
      · exact hs
    exact advance_legal (setReg_legal hflags hrd r.value)

theorem dataProcess_legal {st : State} (hs : st.legal = true) {f : AluOp} {s : Bool} {rn rd : RegNum} {o : Shifted} :
    LegalResult (dataProcess f s rn rd o st) :=
  writeAlu_legal hs s rd _

theorem compare_legal {st : State} (hs : st.legal = true) {f : AluOp} {rn : RegNum} {o : Shifted} :
    LegalResult (compare f rn o st) :=
  advance_legal (setFlags_legal hs _)

theorem writeProduct_legal {st : State} (hs : st.legal = true) {s : Bool} {rd : RegNum} (hrd : rd ≠ 15) {r : Word} :
    LegalResult (writeProduct s rd r st) := by
  have hflags : (if s then setMultiplyFlags r st else st).legal = true := by
    split
    · exact setFlags_legal hs _
    · exact hs
  exact advance_legal (setReg_legal hflags hrd r)

theorem writeProductLong_legal {st : State} (hs : st.legal = true) {s : Bool} {rdHi rdLo : RegNum} (hHi : rdHi ≠ 15)
    (hLo : rdLo ≠ 15) {r : BitVec 64} : LegalResult (writeProductLong s rdHi rdLo r st) := by
  have hflags : (if s then setMultiplyLongFlags r st else st).legal = true := by
    split
    · exact setFlags_legal hs _
    · exact hs
  exact advance_legal (setReg_legal (setReg_legal hflags hLo _) hHi _)

/-! ### Single transfers and swaps -/

theorem abortTransfer_legal {st : State} (hs : st.legal = true) {rn : RegNum} {wb : Option Word}
    (hrn : wb.isSome = true → rn ≠ 15) : LegalResult (abortTransfer rn wb st) := by
  refine legalResult_of_next fun t h => ?_
  obtain rfl | rfl | ⟨v, rfl, rfl⟩ := abortTransfer_next h
  · exact takeException_legal hs _
  · exact takeException_legal (st := st.drawn) hs _
  · exact takeException_legal (setReg_legal (st := st.drawn) hs (hrn rfl) v) _

theorem writeLoaded_legal {st : State} (hs : st.legal = true) (rd : RegNum) (v : Word) :
    LegalResult (writeLoaded rd v st) := by
  unfold writeLoaded
  split
  · exact branchTo_legal hs v
  · next hrd => exact advance_legal (setReg_legal hs hrd v)

theorem loadTransfer_legal {st : State} (hs : st.legal = true) {w : Width} {ext : Word → Word} {rn rd : RegNum}
    {m : Address} (hrn : m.wb.isSome = true → rn ≠ 15) : LegalResult (loadTransfer w ext rn rd m st) := by
  have hread := memRead_legal hs m.addr w
  unfold loadTransfer
  split
  · trivial
  · next h => exact abortTransfer_legal (by rwa [h] at hread) hrn
  · next h => exact writeLoaded_legal (writeBase_legal (by rwa [h] at hread) hrn) rd _

theorem storeTransfer_legal {st : State} (hs : st.legal = true) {w : Width} {rn : RegNum} {v : Word} {m : Address}
    (hrn : m.wb.isSome = true → rn ≠ 15) : LegalResult (storeTransfer w rn v m st) := by
  have hwrite := memWrite_legal hs m.addr w v
  unfold storeTransfer
  split
  · trivial
  · next h => exact abortTransfer_legal (by rwa [h] at hwrite) hrn
  · next h => exact advance_legal (writeBase_legal (by rwa [h] at hwrite) hrn)

theorem swapTransfer_legal {st : State} (hs : st.legal = true) {w : Width} {rn rd rm : RegNum} (hrd : rd ≠ 15) :
    LegalResult (swapTransfer w rn rd rm st) := by
  refine legalResult_of_next fun t h => ?_
  obtain ⟨x, s1, s2, hr, hw, ha⟩ | ⟨s1, hr, rfl⟩ := swapTransfer_next h
  · have hwrite := memWrite_legal ((memRead_ok hr).legal hs) (st.readReg rn) w (st.readReg rm)
    rw [hw] at hwrite
    have hadvance := advance_legal (setReg_legal (st := s2) hwrite hrd x)
    rwa [ha] at hadvance
  · exact takeException_legal (hr.legal hs) _

/-! ### Multiple transfers -/

theorem loadRegs_legal {user : Bool} {regs : List RegNum} (hregs : ∀ r ∈ regs, r ≠ 15) {a : Word} {st : State}
    (hs : st.legal = true) : LegalAccess (loadRegs user regs a st) := by
  induction regs generalizing a st with
  | nil => exact hs
  | cons r rest ih =>
    obtain ⟨hr, hrest⟩ := List.forall_mem_cons.mp hregs
    have hread := memRead_legal hs a .word
    unfold loadRegs
    split
    · trivial
    · next h => rwa [h] at hread
    · next h =>
      rw [h] at hread
      refine ih hrest ?_
      split
      · exact setRegIn_legal hread .user hr _
      · exact setReg_legal hread hr _

theorem storeRegs_legal {user : Bool} {regs : List RegNum} {a : Word} {st : State} (hs : st.legal = true) :
    LegalAccess (storeRegs user regs a st) := by
  induction regs generalizing a st with
  | nil => exact hs
  | cons r rest ih =>
    have hwrite := memWrite_legal hs a .word (if user then st.regIn .user r else st.reg r)
    unfold storeRegs
    split
    · trivial
    · next h => rwa [h] at hwrite
    · next h => exact ih (by rwa [h] at hwrite)

theorem finishLdm_legal {st : State} (hs : st.legal = true) {s : Bool} {rn : RegNum} {wb : Option Word}
    (hrn : wb.isSome = true → rn ≠ 15) {list : BitVec 16} {a : Word} : LegalResult (finishLdm s rn wb list a st) := by
  have hread := memRead_legal hs a .word
  unfold finishLdm
  split
  · split
    · trivial
    · next h => exact abortTransfer_legal (by rwa [h] at hread) hrn
    · next h =>
      rw [h] at hread
      have hbase := writeBase_legal hread hrn
      split
      · exact exceptionReturn_legal hbase _
      · exact branchTo_legal hbase _
  · exact advance_legal (st := { writeBase rn wb st with userBankLdm := s }) (writeBase_legal hs hrn)

theorem loadBlock_legal {st : State} (hs : st.legal = true) {p u s w : Bool} {rn : RegNum} (hrn : rn ≠ 15)
    {list : BitVec 16} {base : Word} : LegalResult (loadBlock p u s w rn list base st) := by
  have hload := loadRegs_legal (user := s && !list.getLsbD 15) (regs := blockRegs list) (fun _ => blockRegs_ne_pc)
    (a := blockStart p u base (blockCount list)) hs
  refine legalResult_guard fun _ => legalResult_guard fun _ => ?_
  split
  · trivial
  · next h => exact abortTransfer_legal (by rwa [h] at hload) fun _ => hrn
  · next h => exact finishLdm_legal (by rwa [h] at hload) fun _ => hrn

theorem finishStm_legal {st : State} (hs : st.legal = true) {rn : RegNum} {wb : Option Word}
    (hrn : wb.isSome = true → rn ≠ 15) {list : BitVec 16} {a : Word} : LegalResult (finishStm rn wb list a st) := by
  have hwrite := memWrite_legal hs a .word (st.storeReg 15)
  unfold finishStm
  split
  · split
    · trivial
    · next h => exact abortTransfer_legal (by rwa [h] at hwrite) hrn
    · next h => exact advance_legal (writeBase_legal (by rwa [h] at hwrite) hrn)
  · exact advance_legal (writeBase_legal hs hrn)

theorem storeBlock_legal {st : State} (hs : st.legal = true) {p u s w : Bool} {rn : RegNum} (hrn : rn ≠ 15)
    {list : BitVec 16} {base : Word} : LegalResult (storeBlock p u s w rn list base st) := by
  have hstore := storeRegs_legal (user := s) (regs := blockRegs list)
    (a := blockStart p u base (blockCount list)) hs
  refine legalResult_guard fun _ => legalResult_guard fun _ => ?_
  split
  · trivial
  · next h => exact abortTransfer_legal (by rwa [h] at hstore) fun _ => hrn
  · next h => exact finishStm_legal (by rwa [h] at hstore) fun _ => hrn

/-! ### Status register and coprocessor instructions -/

/-- MSR to the CPSR leaves T as it is and stores one of the seven modes only (R332). -/
theorem writeCpsr_legal {st : State} (hs : st.legal = true) (mask : BitVec 4) (v : Word) :
    LegalResult (writeCpsr mask v st) := by
  obtain ⟨-, -, hpc, -⟩ := legal_iff.mp hs
  refine legalResult_guard fun hthumb => ?_
  generalize maskedWrite _ _ _ = new at hthumb ⊢
  have hpc' : alignedFor new st.pc = true :=
    (alignedFor_congr (by simpa only [bne_iff_ne, ne_eq, Decidable.not_not] using hthumb) st.pc).trans hpc
  split
  · trivial
  · next m hm => exact advance_legal (legal_of_status hs (congrArg Option.isSome hm) hpc')

theorem writeSpsr_legal {st : State} (hs : st.legal = true) (mask : BitVec 4) (v : Word) :
    LegalResult (writeSpsr mask v st) := by
  unfold writeSpsr
  split
  · trivial
  · exact advance_legal hs

/-- No coprocessor is present, so the instruction is taken as undefined (R341). -/
theorem coprocessor_legal {st : State} (hs : st.legal = true) {cp : BitVec 4} {present : State → Result} :
    LegalResult (coprocessor cp st present) :=
  takeException_legal hs .undefinedInstruction

end Sys2Proof.Machine
end

section
/-! PROOFS. Every instruction keeps the invariant, and with the boundary every step does. -/
namespace Sys2Proof.Machine

/-! ### What a well-formed instruction does not write -/

/-- A check passed by a well-formed instruction is one of its list that does not fail. -/
theorem firstFailing_none {checks : List (Bool × IllFormed)} (h : firstFailing checks = none) {bad : Bool}
    {why : IllFormed} (hmem : (bad, why) ∈ checks) : bad = false := by
  induction checks with
  | nil => cases hmem
  | cons check rest ih =>
    obtain ⟨b, w⟩ := check
    unfold firstFailing at h
    split at h
    · cases h
    · next hb =>
      obtain heq | hrest := List.mem_cons.mp hmem
      · obtain ⟨rfl, -⟩ := Prod.mk.inj heq
        simpa using hb
      · exact ih h hrest

theorem checkMultiply_rd {rd rm : RegNum} {used : List RegNum} (h : checkMultiply rd rm (rd :: used) = none) :
    rd ≠ 15 := by
  have hpc := firstFailing_none h (why := .multiplyPc) (List.mem_cons_self ..)
  rintro rfl
  simp at hpc

theorem checkMultiplyLong_pc {rdHi rdLo rs rm : RegNum} (h : checkMultiplyLong rdHi rdLo rs rm = none) :
    rdHi ≠ 15 ∧ rdLo ≠ 15 := by
  have hpc := firstFailing_none h (why := .multiplyPc) (List.mem_cons_self ..)
  constructor <;> rintro rfl <;> simp at hpc

theorem checkSwap_rd {rn rd rm : RegNum} (h : checkSwap rn rd rm = none) : rd ≠ 15 := by
  have hpc := firstFailing_none h (why := .swapPc) (List.mem_cons_self ..)
  rintro rfl
  simp at hpc

theorem checkTransfer_base {narrow wb : Bool} {rn rd : RegNum} {rm : Option RegNum}
    (h : checkTransfer narrow wb rn rd rm = none) (hwb : wb = true) : rn ≠ 15 := by
  have hpc := firstFailing_none h (bad := wb && rn == 15) (why := .writebackPc) (by simp)
  rintro rfl
  simp [hwb] at hpc

theorem preIndexed_base {narrow u w : Bool} {rn rd : RegNum} {rm : Option RegNum} {base offset : Word}
    (h : checkTransfer narrow w rn rd rm = none) (hwb : (preIndexed u w base offset).wb.isSome = true) : rn ≠ 15 := by
  refine checkTransfer_base h ?_
  cases w
  · cases hwb
  · rfl

theorem postIndexed_base {narrow u : Bool} {rn rd : RegNum} {rm : Option RegNum} {base offset : Word}
    (h : checkTransfer narrow true rn rd rm = none) : (postIndexed u base offset).wb.isSome = true → rn ≠ 15 :=
  fun _ => checkTransfer_base h rfl

theorem checkLdm_rn {s w : Bool} {rn : RegNum} {list : BitVec 16} (h : checkLdm s w rn list = none) : rn ≠ 15 := by
  have hpc := firstFailing_none h (bad := rn == 15) (why := .blockBasePc) (by simp)
  simpa using hpc

theorem checkStm_rn {s w : Bool} {rn : RegNum} {list : BitVec 16} (h : checkStm s w rn list = none) : rn ≠ 15 := by
  have hpc := firstFailing_none h (bad := rn == 15) (why := .blockBasePc) (by simp)
  simpa using hpc

theorem mrs_rd {c : Cond} {r : Bool} {rd : RegNum} (h : (Instr.mrs c r rd).illFormed = none) : rd ≠ 15 := by
  have hpc := firstFailing_none h (bad := rd == 15) (why := .mrsPc) (by simp)
  simpa using hpc

/-! ### Instructions -/

theorem execBlxImm_legal {st : State} (hs : st.legal = true) (h : Bool) (imm : BitVec 24) :
    LegalResult (execBlxImm h imm st) := by
  obtain ⟨-, hmode, hpc, -⟩ := legal_iff.mp hs
  obtain ⟨heven, -⟩ := alignedFor_iff.mp hpc
  exact legal_of_status (linkReturn_legal hs)
    ((congrArg Option.isSome (modeOf_withThumb st.cpsr true)).trans hmode)
    (alignedFor_withThumb_true (blxImm_target_even heven imm h))

theorem execMrs_legal {st : State} (hs : st.legal = true) (c : Cond) (r : Bool) (rd : RegNum) :
    LegalResult (execMrs c r rd st) := by
  refine conditional_legal hs fun hi => ?_
  split
  · split
    · trivial
    · exact advance_legal (setReg_legal hs (mrs_rd hi) _)
  · exact advance_legal (setReg_legal hs (mrs_rd hi) _)

/-- The two targets of MSR (R332). -/
theorem writePsr_legal {st : State} (hs : st.legal = true) (r : Bool) (mask : BitVec 4) (v : Word) :
    LegalResult (if r then writeSpsr mask v st else writeCpsr mask v st) := by
  split
  · exact writeSpsr_legal hs mask v
  · exact writeCpsr_legal hs mask v

theorem execAddImm_legal {st : State} (hs : st.legal = true) (c : Cond) (s : Bool) (rn rd : RegNum) (op : RotImm) :
    LegalResult (execAddImm c s rn rd op st) :=
  conditional_legal hs fun _ => dataProcess_legal hs

theorem execSubImm_legal {st : State} (hs : st.legal = true) (c : Cond) (s : Bool) (rn rd : RegNum) (op : RotImm) :
    LegalResult (execSubImm c s rn rd op st) :=
  conditional_legal hs fun _ => dataProcess_legal hs

theorem execLdrPseudo_legal {st : State} (hs : st.legal = true) (c : Cond) (rd : RegNum) (value : Word) (u : Bool)
    (off : BitVec 12) : LegalResult (execLdrPseudo c rd value u off st) := by
  unfold execLdrPseudo
  split
  · exact conditional_legal hs fun _ => dataProcess_legal hs
  split
  · exact conditional_legal hs fun _ => dataProcess_legal hs
  · exact conditional_legal hs fun hi => loadTransfer_legal hs (preIndexed_base hi)

theorem execAdr_legal {st : State} (hs : st.legal = true) (c : Cond) (rd : RegNum) (u : Bool) (op : RotImm) :
    LegalResult (execAdr c rd u op st) := by
  unfold execAdr
  split
  · exact execAddImm_legal hs c false 15 rd op
  · exact execSubImm_legal hs c false 15 rd op

/-- NOP is MOV R0,R0 (R384). -/
theorem execNop_legal {st : State} (hs : st.legal = true) : LegalResult (execNop st) := by
  unfold execNop
  exact conditional_legal hs fun _ => dataProcess_legal hs

/-- ADRL is legal twice over: after its first instruction and after its second. -/
theorem execAdrl_legal {st : State} (hs : st.legal = true) (c : Cond) (rd : RegNum) (u : Bool) (op1 op2 : RotImm) :
    LegalResult (execAdrl c rd u op1 op2 st) := by
  have hfirst : LegalResult (if u then execAddImm c false 15 rd op1 st else execSubImm c false 15 rd op1 st) :=
    execAdr_legal hs c rd u op1
  unfold execAdrl
  split
  · next st1 h =>
    rw [h] at hfirst
    split
    · exact hfirst
    split
    · exact execAddImm_legal hfirst c false rd rd op2
    · exact execSubImm_legal hfirst c false rd rd op2
  · trivial
  · trivial

/-- Every instruction keeps the invariant: its family's common execution does, and what it writes back or writes to is not
the PC if it is well formed. -/
theorem exec_legal {st : State} (hs : st.legal = true) (i : Instr) : LegalResult (exec i st) := by
  cases i
  all_goals unfold exec
  case andImm | andShiftImm | andShiftReg | eorImm | eorShiftImm | eorShiftReg | subImm | subShiftImm |
      subShiftReg | rsbImm | rsbShiftImm | rsbShiftReg | addImm | addShiftImm | addShiftReg | adcImm | adcShiftImm |
      adcShiftReg | sbcImm | sbcShiftImm | sbcShiftReg | rscImm | rscShiftImm | rscShiftReg | orrImm | orrShiftImm |
      orrShiftReg | movImm | movShiftImm | movShiftReg | bicImm | bicShiftImm | bicShiftReg | mvnImm | mvnShiftImm |
      mvnShiftReg =>
    exact conditional_legal hs fun _ => dataProcess_legal hs
  case tstImm | tstShiftImm | tstShiftReg | teqImm | teqShiftImm | teqShiftReg | cmpImm | cmpShiftImm |
      cmpShiftReg | cmnImm | cmnShiftImm | cmnShiftReg =>
    exact conditional_legal hs fun _ => compare_legal hs
  case mul | mla => exact conditional_legal hs fun hi => writeProduct_legal hs (checkMultiply_rd hi)
  case umull | umlal | smull | smlal =>
    exact conditional_legal hs fun hi =>
      have ⟨hHi, hLo⟩ := checkMultiplyLong_pc hi
      writeProductLong_legal hs hHi hLo
  case swp | swpb => exact conditional_legal hs fun hi => swapTransfer_legal hs (checkSwap_rd hi)
  case ldrhImmPre | ldrhRegPre | ldrsbImmPre | ldrsbRegPre | ldrshImmPre | ldrshRegPre | ldrImmPre | ldrRegPre |
      ldrbImmPre | ldrbRegPre =>
    exact conditional_legal hs fun hi => loadTransfer_legal hs (preIndexed_base hi)
  case ldrhImmPost | ldrhRegPost | ldrsbImmPost | ldrsbRegPost | ldrshImmPost | ldrshRegPost | ldrImmPost |
      ldrRegPost | ldrbImmPost | ldrbRegPost =>
    exact conditional_legal hs fun hi => loadTransfer_legal hs (postIndexed_base hi)
  case strhImmPre | strhRegPre | strImmPre | strRegPre | strbImmPre | strbRegPre =>
    exact conditional_legal hs fun hi => storeTransfer_legal hs (preIndexed_base hi)
  case strhImmPost | strhRegPost | strImmPost | strRegPost | strbImmPost | strbRegPost =>
    exact conditional_legal hs fun hi => storeTransfer_legal hs (postIndexed_base hi)
  case ldm => exact conditional_legal hs fun hi => loadBlock_legal hs (checkLdm_rn hi)
  case stm => exact conditional_legal hs fun hi => storeBlock_legal hs (checkStm_rn hi)
  case b => exact conditional_legal hs fun _ => branchTo_legal hs _
  case bl => exact conditional_legal hs fun _ => branchTo_legal (linkReturn_legal hs) _
  case bx => exact conditional_legal hs fun _ => branchExchange_legal hs _
  case blxReg => exact conditional_legal hs fun _ => branchExchange_legal (linkReturn_legal hs) _
  case blxImm => exact execBlxImm_legal hs _ _
  case mrs => exact execMrs_legal hs _ _ _
  case msrReg | msrImm => exact conditional_legal hs fun _ => writePsr_legal hs _ _ _
  case cdp | ldc | stc | mcr | mrc => exact conditional_legal hs fun _ => coprocessor_legal hs
  case swi | undefMem | undefMsr => exact conditional_legal hs fun _ => takeException_legal hs _
  case bkpt => exact takeException_legal hs .prefetchAbort
  case ldrPseudo => exact execLdrPseudo_legal hs _ _ _ _ _
  case adr => exact execAdr_legal hs _ _ _ _
  case adrl => exact execAdrl_legal hs _ _ _ _ _
  case nop => exact execNop_legal hs

/-! ### The boundary and the step -/

theorem atBoundary_legal {st : State} (hs : st.legal = true) : (atBoundary st).legal = true := hs

theorem wakeUp_legal {st : State} (hs : st.legal = true) : (wakeUp st).legal = true := by
  obtain ⟨-, -, -, hcontrol⟩ := legal_iff.mp hs
  obtain ⟨hmamcr, hmamtim, hmemmap, hclk, -⟩ := controlLegal_iff.mp hcontrol
  unfold wakeUp
  split
  · exact hs
  · exact legal_of_control hs
      (controlLegal_iff.mpr ⟨hmamcr, hmamtim, hmemmap, hclk, pconMode_woken st.sys.pcon⟩)

theorem takeReset_mem (cause : ResetCause) (st : State) : (takeReset cause st).mem = st.mem := by
  simp only [takeReset]

theorem takeReset_sramPending (cause : ResetCause) (st : State) : (takeReset cause st).sramPending = none := by
  simp only [takeReset]

theorem pconMode_reset : pconMode ((0 : Byte).setWidth 32) = some .normal := by decide

/-- Reset enters Supervisor mode in ARM state at address 0, with the reset values of the control registers (R631, R632). -/
theorem takeReset_legal {st : State} (hs : st.legal = true) (cause : ResetCause) :
    (takeReset cause st).legal = true := by
  obtain ⟨hmem, -, -, -⟩ := legal_iff.mp hs
  obtain ⟨hwf, -⟩ := memoryLegal_iff.mp hmem
  have hmem' : (takeReset cause st).memoryLegal = true := by
    rw [memoryLegal_iff, State.pendingInSram, takeReset_mem, takeReset_sramPending]
    exact ⟨hwf, rfl⟩
  have hmode : modeOf (takeReset cause st).cpsr = some .supervisor :=
    congrArg Mode.ofBits (extract_append_low ((st.freeAt 30).extractLsb' 8 24) 0xD3#8 0 5 (by decide))
  have hcontrol : (takeReset cause st).controlLegal = true :=
    controlLegal_iff.mpr ⟨(by decide : (0 : BitVec 2) ≠ 3), (by decide : (7 : BitVec 3) ≠ 0),
      (by decide : startMap ≠ 3), (by decide : (0 : BitVec 2) ≠ 3), pconMode_reset⟩
  exact legal_iff.mpr ⟨hmem', congrArg Option.isSome hmode, alignedFor_of_word rfl _, hcontrol⟩

theorem boundary_done_legal {st t : State} (hs : st.legal = true) (h : boundary st = .done t) : t.legal = true := by
  obtain ⟨cause, -, -, rfl⟩ | ⟨-, rfl⟩ | ⟨e, -, rfl⟩ := boundary_done h
  · exact takeReset_legal (atBoundary_legal hs) cause
  · exact atBoundary_legal hs
  · exact takeException_legal (wakeUp_legal (atBoundary_legal hs)) e

theorem boundary_run_legal {st t : State} (hs : st.legal = true) (h : boundary st = .run t) : t.legal = true := by
  obtain ⟨rfl, -, -⟩ := boundary_run h
  exact wakeUp_legal (atBoundary_legal hs)

theorem step_legal {st : State} (hs : st.legal = true) : LegalResult (step st) := by
  refine legalResult_of_next fun t h => ?_
  obtain hdone | ⟨s1, hrun, -, ⟨-, rfl⟩ | ⟨w, -, ⟨c, -, -, hskip⟩ | ⟨i, -, -, hexec⟩⟩⟩ := step_next h
  · exact boundary_done_legal hs hdone
  · exact takeException_legal (boundary_run_legal hs hrun) .prefetchAbort
  · have hs1 := boundary_run_legal hs hrun
    have hadvance := advance_legal (st := { s1 with userBankLdm := false }) hs1
    rwa [hskip] at hadvance
  · have hs1 := boundary_run_legal hs hrun
    have hinstr := exec_legal (st := { s1 with userBankLdm := false }) hs1 i
    rwa [hexec] at hinstr

/-- Settles O7: the boundary, the fetch and every instruction keep the invariant. -/
theorem stepKeepsLegality : Obligations.StepKeepsLegality := by
  unfold Obligations.StepKeepsLegality
  intro s t hs h
  have hstep := step_legal hs
  rwa [h] at hstep

end Sys2Proof.Machine
end

section
/-! PROOFS. What an instruction does to the state, as a chain of three kinds of effect: a change of the core's own fields, a
read, a store. A property that no effect breaks is kept by every instruction. -/
namespace Sys2Proof.Machine

/-! ### The effects -/

/-- `t` is `s` but for the fields of the core: registers, PC, status registers, the User-bank mark, the count of draws. -/
def CoreChange (s t : State) : Prop :=
  ∃ regs pc cpsr spsr mark n, t = { s with
    regs := regs, pc := pc, cpsr := cpsr, spsr := spsr, userBankLdm := mark, freeIdx := n }

/-- `t` comes from `s` by changes of the core's fields, by reads and by stores. -/
inductive Effects : State → State → Prop
  | core {s t : State} (h : CoreChange s t) : Effects s t
  | read {s t : State} (h : AfterRead s t) : Effects s t
  | write {s t : State} {a v : Word} {w : Width} (h : memWrite a w v s = .ok () t) : Effects s t
  | trans {r s t : State} (h : Effects r s) (h' : Effects s t) : Effects r t

theorem Effects.refl (s : State) : Effects s s := .core ⟨_, _, _, _, _, _, rfl⟩

/-! ### Operations that change the core only -/

theorem CoreChange.trans {r s t : State} (h : CoreChange r s) (h' : CoreChange s t) : CoreChange r t := by
  obtain ⟨_, _, _, _, _, _, rfl⟩ := h
  obtain ⟨_, _, _, _, _, _, rfl⟩ := h'
  exact ⟨_, _, _, _, _, _, rfl⟩

theorem setReg_core (st : State) (r : RegNum) (v : Word) : CoreChange st (st.setReg r v) := ⟨_, _, _, _, _, _, rfl⟩

theorem setFlags_core (st : State) (f : Flags) : CoreChange st (st.setFlags f) := ⟨_, _, _, _, _, _, rfl⟩

theorem takeException_core (e : Exception) (st : State) : CoreChange st (takeException e st) := ⟨_, _, _, _, _, _, rfl⟩

theorem writeBase_core (rn : RegNum) (wb : Option Word) (st : State) : CoreChange st (writeBase rn wb st) := by
  cases wb <;> exact ⟨_, _, _, _, _, _, rfl⟩

theorem advance_core {st t : State} (h : advance st = .next t) : CoreChange st t := by
  obtain ⟨-, rfl⟩ := advance_next.mp h
  exact ⟨_, _, _, _, _, _, rfl⟩

theorem branchTo_core {v : Word} {st t : State} (h : branchTo v st = .next t) : CoreChange st t := by
  obtain ⟨-, rfl⟩ := branchTo_next.mp h
  exact ⟨_, _, _, _, _, _, rfl⟩

theorem branchExchange_core {v : Word} {st t : State} (h : branchExchange v st = .next t) : CoreChange st t := by
  obtain ⟨-, rfl⟩ | ⟨-, -, rfl⟩ := branchExchange_next h <;> exact ⟨_, _, _, _, _, _, rfl⟩

theorem exceptionReturn_core {v : Word} {st t : State} (h : exceptionReturn v st = .next t) : CoreChange st t := by
  obtain ⟨psr, -, -, -, ⟨-, rfl⟩ | ⟨-, -, rfl⟩⟩ := exceptionReturn_next h <;> exact ⟨_, _, _, _, _, _, rfl⟩

theorem abortTransfer_core {rn : RegNum} {wb : Option Word} {st t : State} (h : abortTransfer rn wb st = .next t) :
    CoreChange st t := by
  obtain rfl | rfl | ⟨v, -, rfl⟩ := abortTransfer_next h <;> exact ⟨_, _, _, _, _, _, rfl⟩

theorem writeLoaded_core {rd : RegNum} {v : Word} {st t : State} (h : writeLoaded rd v st = .next t) :
    CoreChange st t := by
  obtain ⟨-, -, rfl⟩ | ⟨-, -, rfl⟩ := writeLoaded_next h <;> exact ⟨_, _, _, _, _, _, rfl⟩

theorem dataProcess_core {f : AluOp} {s : Bool} {rn rd : RegNum} {o : Shifted} {st t : State}
    (h : dataProcess f s rn rd o st = .next t) : CoreChange st t := by
  obtain ⟨-, -, hr⟩ | ⟨-, -, -, rfl⟩ | ⟨-, -, rfl⟩ := writeAlu_next h
  · exact exceptionReturn_core hr
  · exact ⟨_, _, _, _, _, _, rfl⟩
  · cases s <;> exact ⟨_, _, _, _, _, _, rfl⟩

theorem compare_core {f : AluOp} {rn : RegNum} {o : Shifted} {st t : State} (h : compare f rn o st = .next t) :
    CoreChange st t :=
  (setFlags_core st _).trans (advance_core h)

theorem writeProduct_core {s : Bool} {rd : RegNum} {r : Word} {st t : State} (h : writeProduct s rd r st = .next t) :
    CoreChange st t := by
  obtain ⟨-, rfl⟩ := advance_next.mp h
  cases s <;> exact ⟨_, _, _, _, _, _, rfl⟩

theorem writeProductLong_core {s : Bool} {rdHi rdLo : RegNum} {r : BitVec 64} {st t : State}
    (h : writeProductLong s rdHi rdLo r st = .next t) : CoreChange st t := by
  obtain ⟨-, rfl⟩ := advance_next.mp h
  cases s <;> exact ⟨_, _, _, _, _, _, rfl⟩

theorem writeCpsr_core {mask : BitVec 4} {v : Word} {st t : State} (h : writeCpsr mask v st = .next t) :
    CoreChange st t := by
  simp only [writeCpsr] at h
  generalize maskedWrite _ _ _ = new at h
  split at h
  · cases h
  split at h
  · cases h
  · exact CoreChange.trans ⟨_, _, _, _, _, _, rfl⟩ (advance_core h)

theorem writeSpsr_core {mask : BitVec 4} {v : Word} {st t : State} (h : writeSpsr mask v st = .next t) :
    CoreChange st t := by
  unfold writeSpsr at h
  split at h
  · cases h
  · exact CoreChange.trans ⟨_, _, _, _, _, _, rfl⟩ (advance_core h)

/-- The two targets of MSR (R332). -/
theorem writePsr_core {r : Bool} {mask : BitVec 4} {v : Word} {st t : State}
    (h : (if r then writeSpsr mask v st else writeCpsr mask v st) = .next t) : CoreChange st t := by
  cases r
  · exact writeCpsr_core h
  · exact writeSpsr_core h

/-- No coprocessor is present, so the instruction is taken as undefined (R341). -/
theorem coprocessor_core {cp : BitVec 4} {present : State → Result} {st t : State}
    (h : coprocessor cp st present = .next t) : CoreChange st t := by
  obtain rfl := Host.Outcome.next.inj h
  exact takeException_core .undefinedInstruction st

/-! ### Transfers -/

theorem loadTransfer_effects {w : Width} {ext : Word → Word} {rn rd : RegNum} {m : Address} {st t : State}
    (h : loadTransfer w ext rn rd m st = .next t) : Effects st t := by
  obtain ⟨x, s1, hread, hwrite⟩ | ⟨s1, hread, habort⟩ := loadTransfer_next h
  · exact .trans (.read (memRead_ok hread)) (.core ((writeBase_core rn m.wb s1).trans (writeLoaded_core hwrite)))
  · obtain ⟨p, -, rfl⟩ := memRead_abort hread
    exact .trans (.read (disarmFeed_afterRead p st)) (.core (abortTransfer_core habort))

theorem storeTransfer_effects {w : Width} {rn : RegNum} {v : Word} {m : Address} {st t : State}
    (h : storeTransfer w rn v m st = .next t) : Effects st t := by
  obtain ⟨s1, hwrite, hadvance⟩ | ⟨s1, hwrite, habort⟩ := storeTransfer_next h
  · exact .trans (.write hwrite) (.core ((writeBase_core rn m.wb s1).trans (advance_core hadvance)))
  · exact .trans (.read (memWrite_abort hwrite)) (.core (abortTransfer_core habort))

theorem swapTransfer_effects {w : Width} {rn rd rm : RegNum} {st t : State}
    (h : swapTransfer w rn rd rm st = .next t) : Effects st t := by
  obtain ⟨x, s1, s2, hread, hwrite, hadvance⟩ | ⟨s1, hread, rfl⟩ := swapTransfer_next h
  · exact .trans (.read (memRead_ok hread))
      (.trans (.write hwrite) (.core ((setReg_core s2 rd x).trans (advance_core hadvance))))
  · exact .trans (.read hread) (.core (takeException_core _ s1))

theorem loadRegs_effects {user : Bool} {list : BitVec 16} {a : Word} {st t : State}
    (h : loadRegs user (blockRegs list) a st = .abort t ∨ ∃ x, loadRegs user (blockRegs list) a st = .ok x t) :
    Effects st t := by
  obtain ⟨rs, hread⟩ := loadRegs_frame (fun _ => blockRegs_ne_pc) h
  exact .trans (.core ⟨_, _, _, _, _, _, rfl⟩) (.read hread)

theorem storeRegs_effects {user : Bool} {regs : List RegNum} {a : Word} {st t : State}
    (h : storeRegs user regs a st = .abort t ∨ ∃ x, storeRegs user regs a st = .ok x t) : Effects st t := by
  induction regs generalizing a st with
  | nil =>
    obtain h | ⟨x, h⟩ := h
    · cases h
    · obtain ⟨-, rfl⟩ := Access.ok.inj h
      exact .refl _
  | cons r rest ih =>
    rw [storeRegs] at h
    split at h
    · obtain h | ⟨x, h⟩ := h <;> cases h
    · next s1 hwrite =>
      obtain h | ⟨x, h⟩ := h
      · exact Access.abort.inj h ▸ .read (memWrite_abort hwrite)
      · cases h
    · next hwrite => exact .trans (.write hwrite) (ih h)

theorem finishLdm_effects {s : Bool} {rn : RegNum} {wb : Option Word} {list : BitVec 16} {a : Word} {st t : State}
    (h : finishLdm s rn wb list a st = .next t) : Effects st t := by
  unfold finishLdm at h
  split at h
  · split at h
    · cases h
    · next hread =>
      obtain ⟨p, -, rfl⟩ := memRead_abort hread
      exact .trans (.read (disarmFeed_afterRead p st)) (.core (abortTransfer_core h))
    · next v s1 hread =>
      refine .trans (.read (memRead_ok hread)) (.core ((writeBase_core rn wb s1).trans ?_))
      split at h
      · exact exceptionReturn_core h
      · exact branchTo_core h
  · exact .core ((writeBase_core rn wb st).trans (CoreChange.trans ⟨_, _, _, _, _, _, rfl⟩ (advance_core h)))

theorem finishStm_effects {rn : RegNum} {wb : Option Word} {list : BitVec 16} {a : Word} {st t : State}
    (h : finishStm rn wb list a st = .next t) : Effects st t := by
  unfold finishStm at h
  split at h
  · split at h
    · cases h
    · next hwrite => exact .trans (.read (memWrite_abort hwrite)) (.core (abortTransfer_core h))
    · next s1 hwrite => exact .trans (.write hwrite) (.core ((writeBase_core rn wb s1).trans (advance_core h)))
  · exact .core ((writeBase_core rn wb st).trans (advance_core h))

theorem loadBlock_effects {p u s w : Bool} {rn : RegNum} {list : BitVec 16} {base : Word} {st t : State}
    (h : loadBlock p u s w rn list base st = .next t) : Effects st t := by
  unfold loadBlock at h
  dsimp only at h
  split at h
  · cases h
  split at h
  · cases h
  split at h
  · cases h
  · next hload => exact .trans (loadRegs_effects (.inl hload)) (.core (abortTransfer_core h))
  · next hload => exact .trans (loadRegs_effects (.inr ⟨_, hload⟩)) (finishLdm_effects h)

theorem storeBlock_effects {p u s w : Bool} {rn : RegNum} {list : BitVec 16} {base : Word} {st t : State}
    (h : storeBlock p u s w rn list base st = .next t) : Effects st t := by
  unfold storeBlock at h
  dsimp only at h
  split at h
  · cases h
  split at h
  · cases h
  split at h
  · cases h
  · next hstore => exact .trans (storeRegs_effects (.inl hstore)) (.core (abortTransfer_core h))
  · next hstore => exact .trans (storeRegs_effects (.inr ⟨_, hstore⟩)) (finishStm_effects h)

/-! ### Instructions -/

theorem conditional_effects {c : Cond} {i : Instr} {st t : State} {act : State → Result}
    (h : conditional c i st act = .next t) (hact : act st = .next t → Effects st t) : Effects st t := by
  obtain ⟨-, -, h⟩ | ⟨-, h⟩ := conditional_next h
  · exact hact h
  · exact .core (advance_core h)

theorem execMrs_effects {c : Cond} {r : Bool} {rd : RegNum} {st t : State} (h : execMrs c r rd st = .next t) :
    Effects st t := by
  refine conditional_effects h fun h => .core ?_
  split at h
  · split at h
    · cases h
    · exact (setReg_core st rd _).trans (advance_core h)
  · exact (setReg_core st rd _).trans (advance_core h)

theorem execAddImm_effects {c : Cond} {s : Bool} {rn rd : RegNum} {op : RotImm} {st t : State}
    (h : execAddImm c s rn rd op st = .next t) : Effects st t :=
  conditional_effects h fun h => .core (dataProcess_core h)

theorem execSubImm_effects {c : Cond} {s : Bool} {rn rd : RegNum} {op : RotImm} {st t : State}
    (h : execSubImm c s rn rd op st = .next t) : Effects st t :=
  conditional_effects h fun h => .core (dataProcess_core h)

theorem execLdrPseudo_effects {c : Cond} {rd : RegNum} {value : Word} {u : Bool} {off : BitVec 12} {st t : State}
    (h : execLdrPseudo c rd value u off st = .next t) : Effects st t := by
  unfold execLdrPseudo at h
  split at h
  · exact conditional_effects h fun h => .core (dataProcess_core h)
  split at h
  · exact conditional_effects h fun h => .core (dataProcess_core h)
  · exact conditional_effects h loadTransfer_effects

theorem execAdr_effects {c : Cond} {rd : RegNum} {u : Bool} {op : RotImm} {st t : State}
    (h : execAdr c rd u op st = .next t) : Effects st t := by
  cases u
  · exact execSubImm_effects h
  · exact execAddImm_effects h

/-- ADRL: the effects of its first instruction, then those of its second. -/
theorem execAdrl_effects {c : Cond} {rd : RegNum} {u : Bool} {op1 op2 : RotImm} {st t : State}
    (h : execAdrl c rd u op1 op2 st = .next t) : Effects st t := by
  unfold execAdrl at h
  split at h
  · next hfirst =>
    have hfirst : Effects st _ := execAdr_effects hfirst
    split at h
    · exact Host.Outcome.next.inj h ▸ hfirst
    split at h
    · exact hfirst.trans (execAddImm_effects h)
    · exact hfirst.trans (execSubImm_effects h)
  · cases h
  · cases h

/-- NOP is MOV R0,R0 (R384). -/
theorem execNop_effects {st t : State} (h : execNop st = .next t) : Effects st t := by
  unfold execNop at h
  exact conditional_effects h fun h => .core (dataProcess_core h)

/-- Every instruction is a chain of effects, by the common execution of its family. -/
theorem exec_effects {i : Instr} {st t : State} (h : exec i st = .next t) : Effects st t := by
  cases i
  all_goals unfold exec at h
  case andImm | andShiftImm | andShiftReg | eorImm | eorShiftImm | eorShiftReg | subImm | subShiftImm |
      subShiftReg | rsbImm | rsbShiftImm | rsbShiftReg | addImm | addShiftImm | addShiftReg | adcImm | adcShiftImm |
      adcShiftReg | sbcImm | sbcShiftImm | sbcShiftReg | rscImm | rscShiftImm | rscShiftReg | orrImm | orrShiftImm |
      orrShiftReg | movImm | movShiftImm | movShiftReg | bicImm | bicShiftImm | bicShiftReg | mvnImm | mvnShiftImm |
      mvnShiftReg =>
    exact conditional_effects h fun h => .core (dataProcess_core h)
  case tstImm | tstShiftImm | tstShiftReg | teqImm | teqShiftImm | teqShiftReg | cmpImm | cmpShiftImm |
      cmpShiftReg | cmnImm | cmnShiftImm | cmnShiftReg =>
    exact conditional_effects h fun h => .core (compare_core h)
  case mul | mla => exact conditional_effects h fun h => .core (writeProduct_core h)
  case umull | umlal | smull | smlal => exact conditional_effects h fun h => .core (writeProductLong_core h)
  case swp | swpb => exact conditional_effects h swapTransfer_effects
  case ldrhImmPre | ldrhRegPre | ldrsbImmPre | ldrsbRegPre | ldrshImmPre | ldrshRegPre | ldrImmPre | ldrRegPre |
      ldrbImmPre | ldrbRegPre | ldrhImmPost | ldrhRegPost | ldrsbImmPost | ldrsbRegPost | ldrshImmPost |
      ldrshRegPost | ldrImmPost | ldrRegPost | ldrbImmPost | ldrbRegPost =>
    exact conditional_effects h loadTransfer_effects
  case strhImmPre | strhRegPre | strImmPre | strRegPre | strbImmPre | strbRegPre | strhImmPost | strhRegPost |
      strImmPost | strRegPost | strbImmPost | strbRegPost =>
    exact conditional_effects h storeTransfer_effects
  case ldm => exact conditional_effects h loadBlock_effects
  case stm => exact conditional_effects h storeBlock_effects
  case b => exact conditional_effects h fun h => .core (branchTo_core h)
  case bl => exact conditional_effects h fun h => .core ((setReg_core st 14 _).trans (branchTo_core h))
  case bx => exact conditional_effects h fun h => .core (branchExchange_core h)
  case blxReg => exact conditional_effects h fun h => .core ((setReg_core st 14 _).trans (branchExchange_core h))
  case blxImm => exact Host.Outcome.next.inj h ▸ .core ⟨_, _, _, _, _, _, rfl⟩
  case mrs => exact execMrs_effects h
  case msrReg | msrImm => exact conditional_effects h fun h => .core (writePsr_core h)
  case cdp | ldc | stc | mcr | mrc => exact conditional_effects h fun h => .core (coprocessor_core h)
  case swi | undefMem | undefMsr =>
    exact conditional_effects h fun h => Host.Outcome.next.inj h ▸ .core (takeException_core _ st)
  case bkpt => exact Host.Outcome.next.inj h ▸ .core (takeException_core _ st)
  case ldrPseudo => exact execLdrPseudo_effects h
  case adr => exact execAdr_effects h
  case adrl => exact execAdrl_effects h
  case nop => exact execNop_effects h

end Sys2Proof.Machine
end

section
/-! PROOFS. Only the RAMs are written (20_memory.md R77, R90 to R93): a store changes no cell outside them, and the write-back
buffer stays in the SRAM, so Flash and the boot block read as before. -/
namespace Sys2Proof.Machine

/-! ### What addresses read as -/

/-- The boot block reads as the boot ROM, whatever the cells and the write-back buffer hold (R90). -/
theorem byteAt_boot (st : State) {a : Nat} (h : regionOf a = .boot) : st.byteAt a = Config.bootRom (a - bootBase) :=
  if_pos (regionOf_boot.mp h)

/-- Outside the SRAM and the boot block a read sees the cells. -/
theorem byteAt_cell {st : State} (hs : st.pendingInSram = true) {a : Nat} (hsram : regionOf a ≠ .sram)
    (hboot : regionOf a ≠ .boot) : st.byteAt a = st.mem.get a := by
  rw [ne_eq, regionOf_sram] at hsram
  rw [State.byteAt, if_neg (mt regionOf_boot.mpr hboot)]
  cases hp : st.sramPending with
  | none => rfl
  | some p =>
    simp only [State.pendingInSram, hp, Bool.and_eq_true, decide_eq_true_eq] at hs
    rw [Option.bind_some, byteAt_pending_outside p a (by omega)]

/-! ### Stores -/

/-- An aligned access to a RAM stays in the RAM it starts in, since each RAM is a whole number of words. -/
theorem alignAddress_region {w : Width} {p q a : Nat} (hp : plainRam p) (hq : alignAddress w p = some q)
    (ha : q ≤ a ∧ a < q + w.bytes) : regionOf a = regionOf p := by
  obtain ⟨hq, -⟩ := alignAddress_some hq
  obtain hp | hp := hp
  · rw [hp]
    rw [regionOf_sram] at hp ⊢
    cases w <;> simp only [Width.bytes] at hq ha <;> omega
  · rw [hp]
    rw [regionOf_otherRam] at hp ⊢
    cases w <;> simp only [Width.bytes] at hq ha <;> omega

/-- A store to a RAM leaves the write-back buffer in the SRAM. -/
theorem storeMemory_pendingInSram {st : State} (hs : st.pendingInSram = true) {w : Width} {p q : Nat} (v : Word)
    (hq : alignAddress w p = some q) : (storeMemory (regionOf p) q w v st).pendingInSram = true := by
  by_cases hr : regionOf p = .sram
  · simp only [State.pendingInSram, storeMemory, hr, if_true, Bool.and_eq_true, decide_eq_true_eq]
    exact alignAddress_sram hr hq
  · simpa only [State.pendingInSram, storeMemory, hr, if_false] using hs

/-- Emptying the write-back buffer changes cells of the SRAM only (R92). -/
theorem commitPending_get {st : State} (hs : st.pendingInSram = true) {a : Nat} (ha : regionOf a ≠ .sram) :
    (commitPending st.mem st.sramPending).get a = st.mem.get a := by
  rw [ne_eq, regionOf_sram] at ha
  cases hp : st.sramPending with
  | none => rfl
  | some p =>
    simp only [State.pendingInSram, hp, Bool.and_eq_true, decide_eq_true_eq] at hs
    exact Memory.get_store_other _ _ _ _ _ (by omega)

/-- A store to a RAM changes no cell outside the RAMs. -/
theorem storeMemory_get {st : State} (hs : st.pendingInSram = true) {w : Width} {p q a : Nat} (v : Word)
    (hp : plainRam p) (hq : alignAddress w p = some q) (ha : ¬ plainRam a) :
    (storeMemory (regionOf p) q w v st).mem.get a = st.mem.get a := by
  have hout : a < q ∨ q + w.bytes ≤ a := by
    by_contra hin
    have hin : q ≤ a ∧ a < q + w.bytes := by omega
    exact ha (by rwa [plainRam, alignAddress_region hp hq hin])
  by_cases hr : regionOf p = .sram
  · simp only [storeMemory, hr, if_true]
    exact commitPending_get hs fun hsram => ha (.inl hsram)
  · simp only [storeMemory, hr, if_false]
    exact Memory.get_store_other _ _ _ _ _ hout

/-! ### The step -/

/-- `t` has its write-back buffer in the SRAM, and the cells of `s` outside the RAMs. -/
def OnlyRamWritten (s t : State) : Prop :=
  t.pendingInSram = true ∧ ∀ a, ¬ plainRam a → t.mem.get a = s.mem.get a

theorem OnlyRamWritten.trans {r s t : State} (h : OnlyRamWritten r s) (h' : OnlyRamWritten s t) : OnlyRamWritten r t :=
  ⟨h'.1, fun a ha => (h'.2 a ha).trans (h.2 a ha)⟩

/-- The same cells under an empty or unchanged write-back buffer. -/
theorem onlyRamWritten_of_mem {s t : State} (hs : s.pendingInSram = true) (hmem : t.mem = s.mem)
    (hpending : t.sramPending = none ∨ t.sramPending = s.sramPending) : OnlyRamWritten s t := by
  refine ⟨?_, fun a _ => by rw [hmem]⟩
  obtain h | h := hpending
  · simp only [State.pendingInSram, h]
  · simpa only [State.pendingInSram, h] using hs

theorem memWrite_onlyRamWritten {a v : Word} {w : Width} {s t : State} (hs : s.pendingInSram = true)
    (h : memWrite a w v s = .ok () t) : OnlyRamWritten s t := by
  obtain ⟨p, q, -, hp, hq, -, rfl⟩ | ⟨p, armed, -, -, -, hd⟩ := memWrite_ok h
  · exact ⟨storeMemory_pendingInSram hs v hq, fun a ha => storeMemory_get hs v hp hq ha⟩
  · obtain ⟨_, _, _, _, _, _, _, rfl⟩ := writeDevice_ok hd
    exact onlyRamWritten_of_mem hs rfl (.inr rfl)

theorem Effects.onlyRamWritten {s t : State} (h : Effects s t) (hs : s.pendingInSram = true) : OnlyRamWritten s t := by
  induction h with
  | core h =>
    obtain ⟨_, _, _, _, _, _, rfl⟩ := h
    exact onlyRamWritten_of_mem hs rfl (.inr rfl)
  | read h =>
    obtain ⟨_, _, _, _, rfl⟩ := h
    exact onlyRamWritten_of_mem hs rfl (.inr rfl)
  | write h => exact memWrite_onlyRamWritten hs h
  | trans _ _ ih ih' =>
    have h := ih hs
    exact h.trans (ih' h.1)

theorem wakeUp_mem (st : State) : (wakeUp st).mem = st.mem ∧ (wakeUp st).sramPending = st.sramPending := by
  obtain ⟨_, _, h⟩ := wakeUp_frame st
  rw [h]
  exact ⟨rfl, rfl⟩

/-- A boundary writes no memory; a reset loses the write-back buffer (R648). -/
theorem boundary_done_onlyRamWritten {s t : State} (hs : s.pendingInSram = true) (h : boundary s = .done t) :
    OnlyRamWritten s t := by
  obtain ⟨hmem, hpending⟩ := wakeUp_mem (atBoundary s)
  obtain ⟨cause, -, -, rfl⟩ | ⟨-, rfl⟩ | ⟨e, -, rfl⟩ := boundary_done h
  · exact onlyRamWritten_of_mem hs (takeReset_mem _ _) (.inl (takeReset_sramPending _ _))
  · exact onlyRamWritten_of_mem hs rfl (.inr rfl)
  · exact onlyRamWritten_of_mem hs hmem (.inr hpending)

theorem boundary_run_onlyRamWritten {s t : State} (hs : s.pendingInSram = true) (h : boundary s = .run t) :
    OnlyRamWritten s t := by
  obtain ⟨rfl, -, -⟩ := boundary_run h
  obtain ⟨hmem, hpending⟩ := wakeUp_mem (atBoundary s)
  exact onlyRamWritten_of_mem hs hmem (.inr hpending)

/-- Whatever runs after the boundary is a chain of effects: an aborted fetch, a word passed over, an instruction. -/
theorem step_onlyRamWritten {s t : State} (hs : s.pendingInSram = true) (h : step s = .next t) : OnlyRamWritten s t := by
  obtain hdone | ⟨s1, hrun, -, hnext⟩ := step_next h
  · exact boundary_done_onlyRamWritten hs hdone
  have hs1 := boundary_run_onlyRamWritten hs hrun
  refine hs1.trans (Effects.onlyRamWritten ?_ hs1.1)
  have hmark : CoreChange s1 { s1 with userBankLdm := false } := ⟨_, _, _, _, _, _, rfl⟩
  obtain ⟨-, rfl⟩ | ⟨w, -, ⟨c, -, -, hskip⟩ | ⟨i, -, -, hexec⟩⟩ := hnext
  · exact .core (takeException_core _ s1)
  · exact .core (hmark.trans (advance_core hskip))
  · exact .trans (.core hmark) (exec_effects hexec)

/-- Settles O10: a step changes cells of the RAMs only, and the datum of the write-back buffer covers no byte of Flash. -/
theorem flashAndBootAreNeverWritten : Obligations.FlashAndBootAreNeverWritten := by
  unfold Obligations.FlashAndBootAreNeverWritten
  intro s t hs h a
  obtain ⟨ht, hcells⟩ := step_onlyRamWritten hs h
  refine ⟨fun hrom => ?_, hcells a⟩
  obtain hflash | hboot := hrom
  · have hram : ¬ plainRam a := by simp only [plainRam, hflash, reduceCtorEq, or_self, not_false_eq_true]
    have hread {st : State} (hst : st.pendingInSram = true) : st.byteAt a = st.mem.get a :=
      byteAt_cell hst (by simp only [hflash, ne_eq, reduceCtorEq, not_false_eq_true])
        (by simp only [hflash, ne_eq, reduceCtorEq, not_false_eq_true])
    rw [hread ht, hread hs, hcells a hram]
  · rw [byteAt_boot t hboot, byteAt_boot s hboot]

end Sys2Proof.Machine
end

section
/-! PROOFS. The remap of the vectors (20_memory.md R88) and the stores that stop (R75, R77, R81, R85, R90, R100). -/
namespace Sys2Proof.Machine

/-! ### The remap -/

/-- While MAP is 11, the first 64 addresses have no physical address (R88). -/
theorem remap_reserved {a : Word} (h : a.toNat < 0x40) : remap 3 a = none := if_pos h

theorem memRead_remap_none {a : Word} {w : Width} {st : State} (h : remap st.sys.memmap a = none) :
    memRead a w st = .stop .memmapReserved := by
  simp only [memRead, h]

theorem memWrite_remap_none {a v : Word} {w : Width} {st : State} (h : remap st.sys.memmap a = none) :
    memWrite a w v st = .stop .memmapReserved := by
  simp only [memWrite, h]

theorem fetch_remap_none {st : State} (h : remap st.sys.memmap st.pc = none) : fetch st = .stop .memmapReserved := by
  simp only [fetch, h]

/-- Settles O50: the three overlays are the remap's own values, and an address with no physical one stops every access. -/
theorem vectorRemap : Obligations.VectorRemap := by
  unfold Obligations.VectorRemap
  intro a
  refine ⟨fun hlow => ⟨if_pos hlow, if_pos hlow, if_pos hlow, fun s w v hmap => ?_⟩,
    fun hhigh map => remap_high map a hhigh⟩
  have hnone : remap s.sys.memmap a = none := hmap ▸ remap_reserved hlow
  exact ⟨memRead_remap_none hnone, memWrite_remap_none hnone, fun hpc => fetch_remap_none (hpc ▸ hnone)⟩

/-! ### Stores that stop -/

/-- A store to a memory: read-only memory and the prefetched words stop it (R77, R90, R100). -/
theorem memWrite_memory {a v : Word} {w : Width} {st : State} {p q : Nat} (hr : remap st.sys.memmap a = some p)
    (hm : plainMemory p) (hq : alignAddress w p = some q) :
    memWrite a w v st
      = if regionOf p = .flash then .stop .flashStore
        else if regionOf p = .boot then .stop .bootStore
        else if intoPrefetch q st then .stop .storeIntoPrefetch
        else .ok () (storeMemory (regionOf p) q w v st) := by
  simp only [memWrite, hr, hm, hq, externalUnpowered_false, Bool.false_eq_true, if_false]

/-- A word of the prefetch is the word at a physical address, so an address is in it if it is one of its four bytes. -/
theorem remap_word_iff {map : BitVec 2} {b : Word} (hb : b.toNat % 4 = 0) (q : Nat) :
    (remap map b).map (· / 4) = some (q / 4) ↔ ∃ f, remap map b = some f ∧ f ≤ q ∧ q < f + 4 := by
  cases h : remap map b with
  | none => simp only [Option.map_none, reduceCtorEq, false_and, exists_false]
  | some f =>
    have hf := (remap_mod4 h).trans hb
    simp only [Option.map_some, Option.some.injEq, exists_eq_left']
    omega

theorem intoPrefetch_iff {q : Nat} {st : State} (hpc : st.pc.toNat % 4 = 0) :
    intoPrefetch q st = true ↔ ∃ f,
      (remap st.sys.memmap (st.pc + 4) = some f ∨ remap st.sys.memmap (st.pc + 8) = some f) ∧ f ≤ q ∧ q < f + 4 := by
  have h4 : (st.pc + 4).toNat % 4 = 0 := by bv_omega
  have h8 : (st.pc + 8).toNat % 4 = 0 := by bv_omega
  simp only [intoPrefetch, Bool.or_eq_true, beq_iff_eq, remap_word_iff h4, remap_word_iff h8, or_and_right, exists_or]

/-- A device register allows one whole aligned word only (R75). -/
theorem memWrite_partial {a v : Word} {w : Width} {st : State} {p : Nat} (hr : remap st.sys.memmap a = some p)
    (hd : (regionOf p).kind = .device) (hw : wholeWord w p = false) :
    memWrite a w v st = .stop .partialPeripheralAccess := by
  simp only [memWrite, hr, hd, hw, Bool.false_eq_true, if_false]

theorem memRead_partial {a : Word} {w : Width} {st : State} {p : Nat} (hr : remap st.sys.memmap a = some p)
    (hd : (regionOf p).kind = .device) (hw : wholeWord w p = false) :
    memRead a w st = .stop .partialPeripheralAccess := by
  simp only [memRead, hr, hd, hw, Bool.false_eq_true, if_false]

/-- A whole word written to a device goes to the register's write, the PLL feed apart (R77, R556). -/
theorem memWrite_device {a v : Word} {w : Width} {st : State} {p : Nat} (hr : remap st.sys.memmap a = some p)
    (hd : (regionOf p).kind = .device) (hw : wholeWord w p = true) :
    memWrite a w v st = writeDevice (regionOf p) p v (if p = pllfeedAddress then st else disarmFeed p st) := by
  simp only [memWrite, hr, hd, hw, if_true]

/-- A whole word read from a device is what the register's read gives. -/
theorem memRead_device {a : Word} {w : Width} {st : State} {p : Nat} (hr : remap st.sys.memmap a = some p)
    (hd : (regionOf p).kind = .device) (hw : wholeWord w p = true) :
    memRead a w st = readDevice (regionOf p) p (disarmFeed p st) := by
  simp only [memRead, hr, hd, hw, if_true]

/-- The peripherals the spec gives no registers of refuse a write (R81). -/
theorem writeDevice_apb_undescribed {slot p : Nat} (v : Word) (st : State) (hpins : slot ≠ 11) (hsystem : slot ≠ 127) :
    writeDevice (.apb slot) p v st = .stop .undescribedRegister := by
  simp only [writeDevice, hpins, hsystem, if_false]

/-- The part of the last AHB slot below the VIC holds no register (R83). -/
theorem regionOf_lastAhbSlot {p : Nat} (h : 0xFFFFC000 ≤ p ∧ p < 0xFFFFF000) : regionOf p = .ahb 127 := by
  have hb : bootBase = 0x7FFFE000 := rfl
  simp only [regionOf, flashSize, hb]
  rw [if_neg (by omega), if_neg (by omega), if_neg (by omega), if_neg (by omega), if_neg (by omega), if_neg (by omega),
    if_neg (by omega), if_neg (by omega), if_neg (by omega), if_neg (by omega), if_pos h]

/-- An access outside the APB leaves a feed sequence armed (R556). -/
theorem disarmFeed_of_not_apb {p : Nat} (h : p < 0xE0000000 ∨ 0xE0200000 ≤ p) (st : State) : disarmFeed p st = st := by
  have hout : (decide (0xE0000000 ≤ p) && decide (p < 0xE0200000)) = false := by
    rw [← Bool.not_eq_true, Bool.and_eq_true, decide_eq_true_eq, decide_eq_true_eq]
    omega
  simp only [disarmFeed, hout, Bool.not_false, Bool.and_true]

/-- Settles O47: each of the stops is a branch of the memory write, or of the device write it leads to. -/
theorem storesThatStop : Obligations.StoresThatStop := by
  unfold Obligations.StoresThatStop
  intro a v w s p q hr
  refine ⟨fun hq => ⟨fun hflash => ?_, fun hboot => ?_, fun hram hpre => ?_, fun hram hpre => ?_⟩,
    fun hpc => intoPrefetch_iff (extractLsb_two_eq_zero_iff.mp hpc),
    fun hd hw => ⟨memWrite_partial hr hd hw, memRead_partial hr hd hw⟩, fun slot hslot hpins hsystem hw => ?_,
    fun hlo hhi hbytes h4 => ?_⟩
  · rw [memWrite_memory hr (by rw [plainMemory, hflash]; rfl) hq, if_pos hflash]
  · have hne : regionOf p ≠ .flash := by rw [hboot]; decide
    rw [memWrite_memory hr (by rw [plainMemory, hboot]; rfl) hq, if_neg hne, if_pos hboot]
  · have hne : regionOf p ≠ .flash ∧ regionOf p ≠ .boot := by obtain h | h := hram <;> rw [h] <;> decide
    rw [memWrite_memory hr (ram_kind hram) hq, if_neg hne.1, if_neg hne.2, if_pos hpre]
  · exact ⟨_, memWrite_ram hr hram hq hpre⟩
  · rw [memWrite_device hr (by rw [hslot]; rfl) hw, hslot, writeDevice_apb_undescribed v _ hpins hsystem]
  · have hslot : regionOf p = .ahb 127 := regionOf_lastAhbSlot ⟨hlo, hhi⟩
    have hd : (regionOf p).kind = .device := by rw [hslot]; rfl
    have hw : wholeWord w p = true := by simp only [wholeWord, hbytes, h4, beq_self_eq_true, Bool.and_self]
    rw [memWrite_device hr hd hw, memRead_device hr hd hw, hslot, disarmFeed_of_not_apb (.inr (by omega))]
    exact ⟨rfl, _, _, rfl⟩

end Sys2Proof.Machine
end

section
/-! PROOFS. The byte order of memory (20_memory.md R70, R76): halfwords and words as their bytes, what a store to a RAM leaves at
every address (R77, R92), and the reads that follow it. -/
namespace Sys2Proof.Machine

/-! ### Halfwords and words of bytes -/

/-- The low bytes of an access, as the little-endian value read there (R70). -/
theorem bytesAt_halfAt (st : State) (q : Nat) : st.bytesAt q 2 = (st.halfAt q).setWidth 32 := bytesAt_two st q

theorem bytesAt_wordAt (st : State) (q : Nat) : st.bytesAt q 4 = st.wordAt q := bytesAt_four st q

/-- A word is the four bytes it consists of. -/
theorem wordAt_of_bytes {st : State} {q : Nat} {v : Word}
    (h : ∀ k, k < 4 → st.byteAt (q + k) = v.extractLsb' (8 * k) 8) : st.wordAt q = v := by
  have h0 := h 0 (by decide)
  rw [Nat.add_zero] at h0
  rw [State.wordAt, h 3 (by decide), h 2 (by decide), h 1 (by decide), h0]
  exact word_of_bytes v

/-- A halfword is the two bytes it consists of. -/
theorem halfAt_of_bytes {st : State} {q : Nat} {v : BitVec 16}
    (h : ∀ k, k < 2 → st.byteAt (q + k) = v.extractLsb' (8 * k) 8) : st.halfAt q = v := by
  have h0 := h 0 (by decide)
  rw [Nat.add_zero] at h0
  rw [State.halfAt, h 1 (by decide), h0]
  exact BitVec.extractLsb'_append_extractLsb'

/-- Words whose bytes agree are equal, in one state or in two. -/
theorem wordAt_congr {s t : State} {q : Nat} (h : ∀ k, k < 4 → t.byteAt (q + k) = s.byteAt (q + k)) :
    t.wordAt q = s.wordAt q := by
  have h0 := h 0 (by decide)
  rw [Nat.add_zero] at h0
  rw [State.wordAt, State.wordAt, h 3 (by decide), h 2 (by decide), h 1 (by decide), h0]

/-- A field of a field. -/
theorem extract_extract (v : Word) {lo n lo' n' : Nat} (h : lo' + n' ≤ n) :
    (v.extractLsb' lo n).extractLsb' lo' n' = v.extractLsb' (lo + lo') n' := by
  apply BitVec.eq_of_getLsbD_eq
  intro i hi
  have hin : lo' + i < n := by omega
  simp only [BitVec.getLsbD_extractLsb', hi, hin, decide_true, Bool.true_and, Nat.add_assoc]

/-! ### What a store leaves -/

/-- A RAM is a memory outside the boot block. -/
theorem plainRam_not_boot {a : Nat} (h : plainRam a) : ¬ (bootBase ≤ a ∧ a < 0x80000000) := by
  rw [← regionOf_boot]
  obtain h | h := h <;> rw [h] <;> decide

/-- A store past the SRAM does not meet the datum of the write-back buffer. -/
theorem pending_disjoint {st : State} (hs : st.pendingInSram = true) {p q : Nat} {w : Width} (hp : plainRam p)
    (hq : alignAddress w p = some q) (hr : regionOf p ≠ .sram) (d : PendingStore) (hd : st.sramPending = some d) :
    d.addr + d.width.bytes ≤ q ∨ q + w.bytes ≤ d.addr := by
  simp only [State.pendingInSram, hd, Bool.and_eq_true, decide_eq_true_eq] at hs
  have hother := regionOf_otherRam.mp (hp.resolve_left hr)
  obtain ⟨hq, -⟩ := alignAddress_some hq
  have hbytes : 0 < w.bytes ∧ w.bytes ≤ 4 := by cases w <;> decide
  have hmod := Nat.mod_lt p hbytes.1
  omega

/-- What every address reads as after a store to a RAM: the bytes stored, and every other byte as before. -/
theorem byteAt_store {st : State} (hs : st.memoryLegal = true) {p q : Nat} {w : Width} (v : Word) (hp : plainRam p)
    (hq : alignAddress w p = some q) (a : Nat) :
    (storeMemory (regionOf p) q w v st).byteAt a
      = if q ≤ a ∧ a < q + w.bytes then v.extractLsb' (8 * (a - q)) 8 else st.byteAt a := by
  obtain ⟨hwf, hpending⟩ := memoryLegal_iff.mp hs
  by_cases hb : bootBase ≤ a ∧ a < 0x80000000
  · have hboot := regionOf_boot.mpr hb
    have hout : ¬ (q ≤ a ∧ a < q + w.bytes) := fun hin =>
      plainRam_not_boot (a := a) (by rwa [plainRam, alignAddress_region hp hq hin]) hb
    rw [if_neg hout, byteAt_boot _ hboot, byteAt_boot _ hboot]
  · exact byteAt_storeMemory _ q w v st a hwf (fun hr d hd => pending_disjoint hpending hp hq hr d hd) hb

/-- A byte of the datum stored. -/
theorem byteAt_store_inside {st : State} (hs : st.memoryLegal = true) {p q : Nat} {w : Width} (v : Word)
    (hp : plainRam p) (hq : alignAddress w p = some q) {k : Nat} (hk : k < w.bytes) :
    (storeMemory (regionOf p) q w v st).byteAt (q + k) = v.extractLsb' (8 * k) 8 := by
  rw [byteAt_store hs v hp hq, if_pos (by omega), Nat.add_sub_cancel_left]

theorem byteAt_store_outside {st : State} (hs : st.memoryLegal = true) {p q a : Nat} {w : Width} (v : Word)
    (hp : plainRam p) (hq : alignAddress w p = some q) (ha : a < q ∨ q + w.bytes ≤ a) :
    (storeMemory (regionOf p) q w v st).byteAt a = st.byteAt a := by
  rw [byteAt_store hs v hp hq, if_neg (by omega)]

/-! ### Reads after a store -/

/-- The address `k` places above an aligned one. -/
theorem toNat_add_offset {a : Word} {k : Nat} (ha : a.toNat % 4 = 0) (hk : k < 4) :
    (a + BitVec.ofNat 32 k).toNat = a.toNat + k := by
  have := a.isLt
  rw [BitVec.toNat_add, BitVec.toNat_ofNat]
  omega

/-- A read above the remapped addresses, in a memory. -/
theorem memRead_high {a : Word} {w : Width} {st : State} (ha : 0x40 ≤ a.toNat) (hm : plainMemory a.toNat)
    (hd : a.toNat % w.bytes = 0) : memRead a w st = .ok (st.bytesAt a.toNat w.bytes) st :=
  memRead_memory (remap_high _ a ha) hm (alignAddress_of_dvd hd)

/-- Settles O49: every read after the store is of bytes it wrote, or of bytes it left alone. -/
theorem memoryIsLittleEndian : Obligations.MemoryIsLittleEndian := by
  unfold Obligations.MemoryIsLittleEndian
  intro a v s hs ha hram h4 hpre
  have hq : alignAddress .word a.toNat = some a.toNat := alignAddress_of_dvd (w := .word) h4
  have hat {k : Nat} (hk : k < 4) : (a + BitVec.ofNat 32 k).toNat = a.toNat + k := toNat_add_offset h4 hk
  have hmem {k : Nat} (hk : k < 4) : plainMemory (a.toNat + k) := by
    rw [plainMemory, alignAddress_region hram hq ⟨by omega, by simp only [Width.bytes]; omega⟩]
    exact ram_kind hram
  refine ⟨_, memWrite_ram (remap_high _ a ha) hram hq hpre, ?_⟩
  generalize ht : storeMemory (regionOf a.toNat) a.toNat .word v s = t
  have hin (k : Nat) (hk : k < 4) : t.byteAt (a.toNat + k) = v.extractLsb' (8 * k) 8 := by
    rw [← ht]; exact byteAt_store_inside hs v hram hq hk
  have hout (b : Nat) (hb : b < a.toNat ∨ a.toNat + 4 ≤ b) : t.byteAt b = s.byteAt b := by
    rw [← ht]; exact byteAt_store_outside hs v hram hq hb
  have hhalf {j : Nat} (hj : j < 3) : t.halfAt (a.toNat + j) = v.extractLsb' (8 * j) 16 :=
    halfAt_of_bytes fun k hk => by
      rw [Nat.add_assoc, hin _ (by omega), extract_extract v (by omega), Nat.mul_add]
  refine ⟨?word, ?low, ?high, fun k hk => ?byte, fun b x hne hb hbm hb4 hx => ?other⟩
  case word =>
    rw [memRead_high (w := .word) ha (ram_kind hram) h4, Width.bytes, bytesAt_wordAt, wordAt_of_bytes hin]
  case low =>
    rw [memRead_high ha (ram_kind hram) (by simp only [Width.bytes]; omega), Width.bytes, bytesAt_halfAt]
    exact congrArg (fun h => Access.ok (BitVec.setWidth 32 h) t) (hhalf (j := 0) (by decide))
  case high =>
    have h2 : (a + 2).toNat = a.toNat + 2 := hat (k := 2) (by decide)
    rw [memRead_high (by omega) (h2 ▸ hmem (by decide)) (by rw [h2]; simp only [Width.bytes]; omega), Width.bytes,
      bytesAt_halfAt, h2, hhalf (by decide)]
  case byte =>
    rw [memRead_high (by rw [hat hk]; omega) (hat hk ▸ hmem hk) (Nat.mod_one _), Width.bytes, bytesAt_one, hat hk,
      hin k hk]
  case other =>
    have hapart : b.toNat ≠ a.toNat := fun h => hne (BitVec.eq_of_toNat_eq h)
    rw [memRead_high (w := .word) hb hbm hb4, Width.bytes, bytesAt_wordAt] at hx ⊢
    rw [wordAt_congr fun k hk => hout (b.toNat + k) (by omega), (Access.ok.inj hx).1]

end Sys2Proof.Machine
end

section
/-! PROOFS. The entry into an exception (60_exceptions.md R436) as the statements speak of it, and the Prefetch Abort of a fetch
outside memory (20_memory.md R86, R433). -/
namespace Sys2Proof.Machine

/-! ### The status registers on entry -/

/-- The fields of the CPSR on entry above the mode number: I, F, T, and the rest kept. -/
theorem entryCpsr_fields (e : Exception) (psr : Word) :
    (entryCpsr e psr).getLsbD 7 = true ∧ (entryCpsr e psr).getLsbD 6 = (e == .fiq || psr.getLsbD 6)
      ∧ (entryCpsr e psr).getLsbD 5 = false ∧ (entryCpsr e psr).extractLsb' 8 24 = psr.extractLsb' 8 24 := by
  unfold entryCpsr
  refine ⟨?i, ?f, ?t, ?rest⟩
  case i =>
    rw [getLsbD_append_high _ _ 7 (by decide), getLsbD_append_high _ _ 2 (by decide),
      getLsbD_append_high _ _ 1 (by decide)]
    exact getLsbD_append_low _ 1#1 0 (by decide)
  case f =>
    rw [getLsbD_append_high _ _ 6 (by decide), getLsbD_append_high _ _ 1 (by decide)]
    exact (getLsbD_append_low _ _ 0 (by decide)).trans (bit_getLsbD _)
  case t =>
    rw [getLsbD_append_high _ _ 5 (by decide)]
    exact getLsbD_append_low _ 0#1 0 (by decide)
  case rest =>
    rw [extract_append_high _ _ 8 24 (by decide), extract_append_high _ _ 3 24 (by decide),
      extract_append_high _ _ 2 24 (by decide), extract_append_high _ _ 1 24 (by decide), extract_all]

/-- Every mode an exception enters has an SPSR. -/
theorem spsr_get_set_entry (s : Spsrs) (e : Exception) (v : Word) : (s.set e.mode v).get e.mode = some v := by
  cases e <;> rfl

theorem spsr_get_set_other (s : Spsrs) {m m' : Mode} (v : Word) (h : m' ≠ m) : (s.set m v).get m' = s.get m' := by
  cases m <;> cases m' <;> simp only [Spsrs.set, Spsrs.get, ne_eq, not_true_eq_false] at h ⊢

/-! ### The entry -/

/-- The entry sequence does what the statements call an entry. -/
theorem takeException_entered (e : Exception) (st : State) :
    Entered st (takeException e st) e.mode (e.returnAddress st.pc st.thumb) e.vector (e == .fiq) := by
  obtain ⟨hi, hf, ht, hrest⟩ := entryCpsr_fields e st.cpsr
  have hmode : (takeException e st).mode = e.mode := by
    simp only [State.mode, takeException_cpsr, modeOf_entryCpsr, Option.getD_some]
  have hregs : (takeException e st).regs = st.regs.set (physIndex e.mode 14) (e.returnAddress st.pc st.thumb) := rfl
  refine ⟨hmode, ?link, spsr_get_set_entry _ e _, rfl, hi, hf, ht, hrest, fun m' hm => spsr_get_set_other _ _ hm,
    fun m' r hr hne => ?others, ⟨rfl, rfl, fun _ => rfl⟩, ⟨rfl, rfl, rfl, rfl, rfl, rfl, rfl⟩⟩
  case link =>
    rw [regIn_of_ne _ _ _ (by decide), hregs]
    exact Vector.getElem_set_self _
  case others =>
    rw [regIn_of_ne _ _ _ hr, regIn_of_ne _ _ _ hr, hregs]
    exact Vector.getElem_set_ne _ _ fun h => hne (Fin.ext h).symm

/-- Outside the memories a fetch aborts and changes nothing (R86). -/
theorem fetch_abort {st : State} {p : Nat} (hp : remap st.sys.memmap st.pc = some p) (hm : ¬ plainMemory p) :
    fetch st = .abort st := by
  unfold fetch
  rw [hp]
  simp only
  split
  · rfl
  · rfl
  · next h => exact absurd h hm

/-- Settles O13: the step is the running of the next instruction, which is refused in Thumb state and enters Abort mode where
the fetch aborts. -/
theorem fetchOutsideMemoryAborts : Obligations.FetchOutsideMemoryAborts := by
  unfold Obligations.FetchOutsideMemoryAborts
  intro s s1 hb
  rw [step_of_boundary_run hb]
  refine ⟨fun hthumb => ?_, fun p harm hp hm => ⟨takeException .prefetchAbort s1, ?_, takeException_entered _ s1⟩⟩
  · simp only [runNext, hthumb, if_true]
  · simp only [runNext, harm, fetch_abort hp hm, Bool.false_eq_true, if_false]

end Sys2Proof.Machine
end

section
/-! PROOFS. The frame of a change of registers, and the forms of the single transfers: which load or store each runs once it is
ready, and what its operand restrictions say of the base (41_load_store.md R201, R202). -/
namespace Sys2Proof.Machine

/-! ### Changes of registers -/

/-- `t` is `s` but for the general registers and the PC. -/
def RegsChange (s t : State) : Prop := ∃ regs pc, t = { s with regs := regs, pc := pc }

theorem RegsChange.refl (s : State) : RegsChange s s := ⟨_, _, rfl⟩

theorem RegsChange.trans {r s t : State} (h : RegsChange r s) (h' : RegsChange s t) : RegsChange r t := by
  obtain ⟨_, _, rfl⟩ := h
  obtain ⟨_, _, rfl⟩ := h'
  exact ⟨_, _, rfl⟩

theorem setReg_regsChange (st : State) (r : RegNum) (v : Word) : RegsChange st (st.setReg r v) := ⟨_, _, rfl⟩

theorem setPc_regsChange (st : State) (v : Word) : RegsChange st { st with pc := v } := ⟨_, _, rfl⟩

theorem writeBase_regsChange (rn : RegNum) (wb : Option Word) (st : State) : RegsChange st (writeBase rn wb st) := by
  cases wb
  · exact .refl st
  · exact setReg_regsChange st rn _

theorem RegsChange.cpsr {s t : State} (h : RegsChange s t) : t.cpsr = s.cpsr := by obtain ⟨_, _, rfl⟩ := h; rfl

theorem RegsChange.spsr {s t : State} (h : RegsChange s t) : t.spsr = s.spsr := by obtain ⟨_, _, rfl⟩ := h; rfl

theorem RegsChange.userBankLdm {s t : State} (h : RegsChange s t) : t.userBankLdm = s.userBankLdm := by
  obtain ⟨_, _, rfl⟩ := h; rfl

theorem RegsChange.freeIdx {s t : State} (h : RegsChange s t) : t.freeIdx = s.freeIdx := by
  obtain ⟨_, _, rfl⟩ := h; rfl

theorem RegsChange.mode {s t : State} (h : RegsChange s t) : t.mode = s.mode := mode_of_cpsr h.cpsr

theorem RegsChange.byteAt {s t : State} (h : RegsChange s t) (a : Nat) : t.byteAt a = s.byteAt a := by
  obtain ⟨_, _, rfl⟩ := h; rfl

theorem RegsChange.memoryKept {s t : State} (h : RegsChange s t) : MemoryKept s t := by
  obtain ⟨_, _, rfl⟩ := h
  exact ⟨rfl, rfl, fun _ => rfl⟩

theorem RegsChange.devicesKept {s t : State} (h : RegsChange s t) : DevicesKept s t := by
  obtain ⟨_, _, rfl⟩ := h
  exact ⟨rfl, rfl, rfl, rfl, rfl, rfl, rfl⟩

theorem RegsChange.onlyRegisters {s t : State} {written : List RegNum} (h : RegsChange s t)
    (hregs : RegistersKept s t written) : OnlyRegisters s t written :=
  ⟨hregs, ⟨congrArg _ h.cpsr, h.spsr⟩, h.memoryKept, h.devicesKept, h.userBankLdm⟩

/-! ### Which registers a change keeps -/

theorem registersKept_of_regs {s t : State} (h : t.regs = s.regs) (written : List RegNum) :
    RegistersKept s t written := fun m r hr _ => by
  rw [regIn_of_ne _ _ _ hr, regIn_of_ne _ _ _ hr, h]

theorem RegistersKept.setReg {s t : State} {written : List RegNum} (h : RegistersKept s t written)
    (hmode : t.mode = s.mode) {r : RegNum} (hr : r ≠ 15) (v : Word) : RegistersKept s (t.setReg r v) (r :: written) := by
  intro m r' hr' hout
  have hne : physIndex t.mode r ≠ physIndex m r' := by
    rw [hmode]
    exact ((hout r (List.mem_cons_self ..)).resolve_left hr).symm
  rw [State.setReg, regIn_setRegIn t v hr hr', if_neg hne]
  exact h m r' hr' fun x hx => hout x (List.mem_cons_of_mem r hx)

/-- The value of the PC does not count among the general registers. -/
theorem RegistersKept.setPc {s t : State} {written : List RegNum} (h : RegistersKept s t written) (v : Word) :
    RegistersKept s { t with pc := v } written := fun m r hr hout => by
  rw [← h m r hr hout, regIn_of_ne _ _ _ hr, regIn_of_ne _ _ _ hr]

/-- Base write-back writes the base, if anything. -/
theorem writeBase_registersKept {s t : State} (hregs : t.regs = s.regs) (hmode : t.mode = s.mode) {m : Address}
    {rn : RegNum} (hrn : m.wb.isSome = true → rn ≠ 15) : RegistersKept s (writeBase rn m.wb t) (m.written rn) := by
  unfold Address.written
  cases hwb : m.wb with
  | none => exact registersKept_of_regs hregs _
  | some v => exact (registersKept_of_regs hregs []).setReg hmode (hrn (by rw [hwb]; rfl)) v

theorem writeBase_reg {st : State} {rn : RegNum} {wb : Option Word} {v : Word} (h : wb = some v) :
    (writeBase rn wb st).reg rn = v := by
  subst h
  exact reg_setReg_same st rn v

theorem writeBase_pc {st : State} {rn : RegNum} {wb : Option Word} (hrn : wb.isSome = true → rn ≠ 15) :
    (writeBase rn wb st).pc = st.pc := by
  cases wb with
  | none => rfl
  | some v => exact setReg_pc st rn v (hrn rfl)

/-! ### The forms -/

theorem Ready.illFormed {i : Instr} {st : State} (h : Ready i st) : i.illFormed = none :=
  Option.isNone_iff_eq_none.mp h.1

/-- A ready instruction has its meaning. -/
theorem exec_of_ready {i : Instr} {c : Cond} {st : State} {act : State → Result} (h : Ready i st)
    (hc : i.cond? = some c) (he : ∀ s, exec i s = conditional c i s act) : exec i st = act st :=
  (he st).trans (conditional_run (h.2 c hc) h.illFormed)

theorem checkTransfer_base_ne_dest {narrow wb : Bool} {rn rd : RegNum} {rm : Option RegNum}
    (h : checkTransfer narrow wb rn rd rm = none) (hwb : wb = true) : rn ≠ rd := by
  have hdest := firstFailing_none h (bad := wb && rn == rd) (why := .writebackTransferred) (by simp)
  rintro rfl
  simp [hwb] at hdest

theorem checkSwap_rn {rn rd rm : RegNum} (h : checkSwap rn rd rm = none) : rn ≠ 15 := by
  have hpc := firstFailing_none h (why := .swapPc) (List.mem_cons_self ..)
  rintro rfl
  simp at hpc

theorem readReg_of_ne (st : State) {r : RegNum} (h : r ≠ 15) : st.readReg r = st.reg r := if_neg h

/-- What R201 and R202 ask of a base that is written back. -/
def BaseAllowed (m : Address) (rn rd : RegNum) : Prop := m.wb.isSome = true → rn ≠ 15 ∧ rn ≠ rd

theorem baseAllowed_pre {narrow u wb : Bool} {rn rd : RegNum} {rm : Option RegNum} {base offset : Word}
    (h : checkTransfer narrow wb rn rd rm = none) : BaseAllowed (preIndexed u wb base offset) rn rd := fun hwb =>
  have hw : wb = true := by
    cases wb
    · cases hwb
    · rfl
  ⟨checkTransfer_base h hw, checkTransfer_base_ne_dest h hw⟩

theorem baseAllowed_post {narrow u : Bool} {rn rd : RegNum} {rm : Option RegNum} {base offset : Word}
    (h : checkTransfer narrow true rn rd rm = none) : BaseAllowed (postIndexed u base offset) rn rd := fun _ =>
  ⟨checkTransfer_base h rfl, checkTransfer_base_ne_dest h rfl⟩

/-- In state `st`, `i` is the load of width `w`, extended by `ext`, into `rd` at `m` with base `rn`. -/
structure RunsLoad (i : Instr) (st : State) (w : Width) (ext : Word → Word) (rn rd : RegNum) (m : Address) : Prop where
  run : exec i st = loadTransfer w ext rn rd m st
  base : BaseAllowed m rn rd

/-- In state `st`, `i` is the store of width `w` of register `rd` at `m` with base `rn`. -/
structure RunsStore (i : Instr) (st : State) (w : Width) (rn rd : RegNum) (m : Address) : Prop where
  run : exec i st = storeTransfer w rn (st.storeReg rd) m st
  base : BaseAllowed m rn rd

theorem runsLoad_of_ready {i : Instr} {c : Cond} {st : State} {act : State → Result} {w : Width} {ext : Word → Word}
    {rn rd : RegNum} {m : Address} (h : Ready i st) (hc : i.cond? = some c)
    (he : ∀ s, exec i s = conditional c i s act) (ha : act st = loadTransfer w ext rn rd m st)
    (hb : i.illFormed = none → BaseAllowed m rn rd) : RunsLoad i st w ext rn rd m :=
  ⟨(exec_of_ready h hc he).trans ha, hb h.illFormed⟩

theorem runsStore_of_ready {i : Instr} {c : Cond} {st : State} {act : State → Result} {w : Width} {rn rd : RegNum}
    {m : Address} (h : Ready i st) (hc : i.cond? = some c) (he : ∀ s, exec i s = conditional c i s act)
    (ha : act st = storeTransfer w rn (st.storeReg rd) m st) (hb : i.illFormed = none → BaseAllowed m rn rd) :
    RunsStore i st w rn rd m :=
  ⟨(exec_of_ready h hc he).trans ha, hb h.illFormed⟩

end Sys2Proof.Machine
end

section
/-! PROOFS. The Data Abort of a transfer (60_exceptions.md R434, 41_load_store.md R211) and where it happens: at the reserved and
unused addresses (20_memory.md R85). -/
namespace Sys2Proof.Machine

theorem loadTransfer_of_abort {w : Width} {ext : Word → Word} {rn rd : RegNum} {m : Address} {st dev : State}
    (h : memRead m.addr w st = .abort dev) : loadTransfer w ext rn rd m st = abortTransfer rn m.wb dev := by
  simp only [loadTransfer, h]

theorem storeTransfer_of_abort {w : Width} {rn : RegNum} {v : Word} {m : Address} {st dev : State}
    (h : memWrite m.addr w v st = .abort dev) : storeTransfer w rn v m st = abortTransfer rn m.wb dev := by
  simp only [storeTransfer, h]

/-- A swap has no base to write back, so its aborted read is an aborted transfer without one. -/
theorem swapTransfer_of_abort {w : Width} {rn rd rm : RegNum} {st dev : State}
    (h : memRead (st.readReg rn) w st = .abort dev) : swapTransfer w rn rd rm st = abortTransfer rn none dev := by
  simp only [swapTransfer, h, abortTransfer]

/-- The aborted transfer enters Abort mode from the access's state, the base being the old or the written-back value. -/
theorem abortsAt_of_abortTransfer {i : Instr} {st dev : State} {m : Address} {rn : RegNum}
    (hexec : exec i st = abortTransfer rn m.wb dev) (hread : AfterRead st dev) (hrn : m.wb.isSome = true → rn ≠ 15) :
    AbortsAt i st dev m rn := by
  have entered {s1 : State} (hpc : s1.pc = st.pc) : Entered s1 (takeException .dataAbort s1) .abort (st.pc + 8) 0x10 false :=
    hpc ▸ takeException_entered .dataAbort s1
  obtain ⟨_, _, _, _, rfl⟩ := hread
  cases hwb : m.wb with
  | none =>
    simp only [abortTransfer, hwb] at hexec
    exact ⟨_, _, hexec, entered rfl, rfl, rfl, ⟨rfl, rfl, fun _ => rfl⟩, ⟨rfl, rfl, rfl, rfl, rfl, rfl, rfl⟩,
      registersKept_of_regs rfl _, fun v hv => absurd (hwb.symm.trans hv) (by simp only [reduceCtorEq, not_false_eq_true])⟩
  | some v =>
    have hne : rn ≠ 15 := hrn (by rw [hwb]; rfl)
    simp only [abortTransfer, hwb] at hexec
    split at hexec
    · refine ⟨_, _, hexec, entered (setReg_pc _ _ _ hne), rfl, rfl, ⟨rfl, rfl, fun _ => rfl⟩,
        ⟨rfl, rfl, rfl, rfl, rfl, rfl, rfl⟩, ?_, fun v' hv => .inr ?_⟩
      · rw [Address.written, hwb]
        exact (registersKept_of_regs rfl []).setReg rfl hne v
      · obtain rfl := Option.some.inj (hwb.symm.trans hv)
        exact regIn_setRegIn_same _ _ _ _
    · exact ⟨_, _, hexec, entered rfl, rfl, rfl, ⟨rfl, rfl, fun _ => rfl⟩, ⟨rfl, rfl, rfl, rfl, rfl, rfl, rfl⟩,
        registersKept_of_regs rfl _, fun _ _ => .inl rfl⟩

/-- At an unused address the access disarms a PLL feed, and then the transfer aborts. -/
theorem RunsLoad.abortsAt {i : Instr} {st : State} {w : Width} {ext : Word → Word} {rn rd : RegNum} {m : Address}
    {p : Nat} (h : RunsLoad i st w ext rn rd m) (hr : remap st.sys.memmap m.addr = some p)
    (hu : (regionOf p).kind = .unmapped) : AbortsAt i st (disarmFeed p st) m rn :=
  abortsAt_of_abortTransfer (h.run.trans (loadTransfer_of_abort (memRead_unmapped hr hu))) (disarmFeed_afterRead p st)
    fun hwb => (h.base hwb).1

theorem RunsStore.abortsAt {i : Instr} {st : State} {w : Width} {rn rd : RegNum} {m : Address} {p : Nat}
    (h : RunsStore i st w rn rd m) (hr : remap st.sys.memmap m.addr = some p) (hu : (regionOf p).kind = .unmapped) :
    AbortsAt i st (disarmFeed p st) m rn :=
  abortsAt_of_abortTransfer (h.run.trans (storeTransfer_of_abort (memWrite_unmapped hr hu))) (disarmFeed_afterRead p st)
    fun hwb => (h.base hwb).1

theorem swap_abortsAt {i : Instr} {c : Cond} {st : State} {act : State → Result} {w : Width} {rn rd rm : RegNum} {p : Nat}
    (h : Ready i st) (hc : i.cond? = some c) (hi : i.illFormed = checkSwap rn rd rm)
    (he : ∀ s, exec i s = conditional c i s act) (ha : act st = swapTransfer w rn rd rm st)
    (hr : remap st.sys.memmap (st.reg rn) = some p) (hu : (regionOf p).kind = .unmapped) :
    AbortsAt i st (disarmFeed p st) { addr := st.reg rn, wb := none } rn := by
  have hrn : rn ≠ 15 := checkSwap_rn (hi.symm.trans h.illFormed)
  have hread : memRead (st.readReg rn) w st = .abort (disarmFeed p st) := by
    rw [readReg_of_ne st hrn]
    exact memRead_unmapped hr hu
  exact abortsAt_of_abortTransfer ((exec_of_ready h hc he).trans (ha.trans (swapTransfer_of_abort hread)))
    (disarmFeed_afterRead p st) fun _ => hrn

/-- Settles O46: every transfer aborts with the PLL feed disarmed, which is all that the APB range may change. -/
theorem dataAbortOnUnusedAddress : Obligations.DataAbortOnUnusedAddress := by
  unfold Obligations.DataAbortOnUnusedAddress
  intro c u w rn rd rm imm12 imm8 off s p aborts
  have abort {i : Instr} {m : Address}
      (h : Ready i s → remap s.sys.memmap m.addr = some p → (regionOf p).kind = .unmapped →
        AbortsAt i s (disarmFeed p s) m rn) : aborts i m := by
    intro hready hr hu
    obtain ⟨s1, t, hexec, hentered, hcpsr, hspsr, hmem, hdev, hregs, hbase⟩ := h hready hr hu
    obtain ⟨hvic, hext, hsys, hpin, hemc, hpower, henv⟩ := hdev
    refine ⟨s1, t, hexec, hentered, hcpsr, hspsr, hmem, ⟨hvic, hext, ?_, hpin, hemc, hpower, henv⟩, fun hp => ?_,
      hregs, hbase⟩
    · simp only [hsys]
      rfl
    · rw [hsys, disarmFeed_of_not_apb hp]
  refine ⟨?ldrImmPre, ?ldrImmPost, ?ldrRegPre, ?ldrRegPost, ?strImmPre, ?strImmPost, ?strRegPre, ?strRegPost,
    ?ldrbImmPre, ?ldrbImmPost, ?ldrbRegPre, ?ldrbRegPost, ?strbImmPre, ?strbImmPost, ?strbRegPre, ?strbRegPost,
    ?ldrhImmPre, ?ldrhImmPost, ?ldrhRegPre, ?ldrhRegPost, ?strhImmPre, ?strhImmPost, ?strhRegPre, ?strhRegPost,
    ?ldrsbImmPre, ?ldrsbImmPost, ?ldrsbRegPre, ?ldrsbRegPost, ?ldrshImmPre, ?ldrshImmPost, ?ldrshRegPre,
    ?ldrshRegPost, ?swp, ?swpb⟩
  case ldrImmPre | ldrRegPre | ldrbImmPre | ldrbRegPre | ldrhImmPre | ldrhRegPre | ldrsbImmPre | ldrsbRegPre |
      ldrshImmPre | ldrshRegPre =>
    exact abort fun h hr hu => (runsLoad_of_ready h rfl (fun _ => rfl) rfl fun hi => baseAllowed_pre hi).abortsAt hr hu
  case ldrImmPost | ldrRegPost | ldrbImmPost | ldrbRegPost | ldrhImmPost | ldrhRegPost | ldrsbImmPost | ldrsbRegPost |
      ldrshImmPost | ldrshRegPost =>
    exact abort fun h hr hu => (runsLoad_of_ready h rfl (fun _ => rfl) rfl fun hi => baseAllowed_post hi).abortsAt hr hu
  case strImmPre | strRegPre | strbImmPre | strbRegPre | strhImmPre | strhRegPre =>
    exact abort fun h hr hu => (runsStore_of_ready h rfl (fun _ => rfl) rfl fun hi => baseAllowed_pre hi).abortsAt hr hu
  case strImmPost | strRegPost | strbImmPost | strbRegPost | strhImmPost | strhRegPost =>
    exact abort fun h hr hu => (runsStore_of_ready h rfl (fun _ => rfl) rfl fun hi => baseAllowed_post hi).abortsAt hr hu
  case swp | swpb => exact abort fun h hr hu => swap_abortsAt h rfl rfl (fun _ => rfl) rfl hr hu

end Sys2Proof.Machine
end

section
/-! PROOFS. What the single transfers do in the memories (41_load_store.md R203 to R211), at any address the alignment policy
allows (20_memory.md R74). -/
namespace Sys2Proof.Machine

/-! ### Loads -/

/-- A load from a memory: the bytes at the aligned address, then the base, then the destination. -/
theorem RunsLoad.memory {i : Instr} {st : State} {w : Width} {ext : Word → Word} {rn rd : RegNum} {m : Address}
    {p q : Nat} (h : RunsLoad i st w ext rn rd m) (hr : remap st.sys.memmap m.addr = some p) (hm : plainMemory p)
    (hq : alignAddress w p = some q) :
    exec i st = writeLoaded rd (ext (st.bytesAt q w.bytes)) (writeBase rn m.wb st) := by
  rw [h.run, loadTransfer, memRead_memory hr hm hq]

theorem reg_setPc (st : State) (v : Word) {r : RegNum} (h : r ≠ 15) : ({ st with pc := v } : State).reg r = st.reg r := by
  simp only [State.reg, regIn_of_ne _ _ _ h]
  rfl

/-- A loaded value that goes to a register, the base written back first. -/
theorem writeLoaded_register {st : State} {m : Address} {rn rd : RegNum} (hb : BaseAllowed m rn rd) (hrd : rd ≠ 15)
    (hpc : st.pc ≠ 0xFFFFFFFC) (x : Word) :
    ∃ t, writeLoaded rd x (writeBase rn m.wb st) = .next t ∧ t.reg rd = x ∧ (∀ v, m.wb = some v → t.reg rn = v)
      ∧ t.pc = st.pc + 4 ∧ t.cpsr = st.cpsr ∧ OnlyRegisters st t (rd :: m.written rn) ∧ t.freeIdx = st.freeIdx := by
  have hbase := writeBase_regsChange rn m.wb st
  have hbasePc : (writeBase rn m.wb st).pc = st.pc := writeBase_pc fun h => (hb h).1
  have hpc' : ((writeBase rn m.wb st).setReg rd x).pc = st.pc := (setReg_pc _ rd x hrd).trans hbasePc
  have hchange := (hbase.trans (setReg_regsChange _ rd x)).trans (setPc_regsChange _ (st.pc + 4))
  refine ⟨_, ?_, ?_, fun v hv => ?_, rfl, hchange.cpsr, hchange.onlyRegisters ?_, hchange.freeIdx⟩
  · rw [writeLoaded, if_neg hrd, advance_of_ne (hpc'.symm ▸ hpc), hpc']
  · rw [reg_setPc _ _ hrd, reg_setReg_same]
  · obtain ⟨hrn, hne⟩ := hb (by rw [hv]; rfl)
    rw [reg_setPc _ _ hrn, reg_setReg_other _ _ _ _ hne, writeBase_reg hv]
  · exact ((writeBase_registersKept rfl rfl fun h => (hb h).1).setReg hbase.mode hrd x).setPc _

/-- A loaded value that goes to the PC: a branch to it, the base written back first (R203). -/
theorem writeLoaded_branch {st : State} {m : Address} {rn : RegNum} (hrn : m.wb.isSome = true → rn ≠ 15) {x : Word}
    (hx : x.extractLsb' 0 2 = 0) :
    ∃ t, writeLoaded 15 x (writeBase rn m.wb st) = .next t ∧ t.pc = x ∧ (∀ v, m.wb = some v → t.reg rn = v)
      ∧ t.cpsr = st.cpsr ∧ OnlyRegisters st t (m.written rn) ∧ t.freeIdx = st.freeIdx := by
  have hchange := (writeBase_regsChange rn m.wb st).trans (setPc_regsChange _ x)
  refine ⟨_, branchTo_next.mpr ⟨hx, rfl⟩, rfl, fun v hv => ?_, hchange.cpsr, hchange.onlyRegisters ?_, hchange.freeIdx⟩
  · rw [reg_setPc _ _ (hrn (by rw [hv]; rfl)), writeBase_reg hv]
  · exact (writeBase_registersKept rfl rfl hrn).setPc _

theorem writeLoaded_misaligned {st : State} {x : Word} (hx : x.extractLsb' 0 2 ≠ 0) :
    writeLoaded 15 x st = .fault .misalignedPc := if_neg hx

/-- The low bits of an address are those of its physical address, so LDR rotates by them (R74). -/
theorem rotateLoaded_of_remap {map : BitVec 2} {a : Word} {p : Nat} (h : remap map a = some p) (v : Word) :
    rotateLoaded a v = v.rotateRight (8 * (p % 4)) := by
  have hlow : (a.extractLsb' 0 2).toNat = p % 4 := by
    rw [BitVec.extractLsb'_toNat, Nat.shiftRight_zero, remap_mod4 h]
  rw [rotateLoaded, hlow]

/-! ### Stores -/

/-- A store to a RAM outside the prefetched words: the datum, then the base. -/
theorem RunsStore.ram {i : Instr} {st : State} {w : Width} {rn rd : RegNum} {m : Address} {p q : Nat}
    (h : RunsStore i st w rn rd m) (hr : remap st.sys.memmap m.addr = some p) (hm : plainRam p)
    (hq : alignAddress w p = some q) (hpre : intoPrefetch q st = false) :
    exec i st = advance (writeBase rn m.wb (storeMemory (regionOf p) q w (st.storeReg rd) st)) := by
  rw [h.run, storeTransfer, memWrite_ram hr hm hq hpre]

/-- The end of a store: the base written back, and the next PC. -/
theorem advance_writeBase {st : State} {m : Address} {rn : RegNum} (hrn : m.wb.isSome = true → rn ≠ 15)
    (hpc : st.pc ≠ 0xFFFFFFFC) :
    ∃ t, advance (writeBase rn m.wb st) = .next t ∧ RegsChange st t ∧ t.pc = st.pc + 4
      ∧ (∀ b, m.wb = some b → t.reg rn = b) ∧ RegistersKept st t (m.written rn) := by
  have hbasePc : (writeBase rn m.wb st).pc = st.pc := writeBase_pc hrn
  refine ⟨_, ?_, (writeBase_regsChange rn m.wb st).trans (setPc_regsChange _ (st.pc + 4)), rfl, fun b hb => ?_,
    (writeBase_registersKept rfl rfl hrn).setPc _⟩
  · rw [advance_of_ne (hbasePc.symm ▸ hpc), hbasePc]
  · rw [reg_setPc _ _ (hrn (by rw [hb]; rfl)), writeBase_reg hb]

/-- What a store to a RAM leaves: the bytes of the datum, the base, the next PC, and nothing else. -/
theorem stored_writeBase {st : State} (hs : st.memoryLegal = true) {m : Address} {rn : RegNum}
    (hrn : m.wb.isSome = true → rn ≠ 15) (hpc : st.pc ≠ 0xFFFFFFFC) {p q : Nat} {w : Width} (v : Word)
    (hp : plainRam p) (hq : alignAddress w p = some q) :
    ∃ t, advance (writeBase rn m.wb (storeMemory (regionOf p) q w v st)) = .next t
      ∧ (∀ k, k < w.bytes → t.byteAt (q + k) = v.extractLsb' (8 * k) 8) ∧ (∀ b, m.wb = some b → t.reg rn = b)
      ∧ t.pc = st.pc + 4 ∧ OnlyBytes st t q w.bytes (m.written rn) := by
  obtain ⟨t, hnext, hchange, hpc', hbase, hkept⟩ :=
    advance_writeBase (st := storeMemory (regionOf p) q w v st) hrn hpc
  refine ⟨t, hnext, fun k hk => ?_, hbase, hpc', hkept, hchange.cpsr, hchange.spsr, hchange.devicesKept,
    hchange.userBankLdm, hchange.freeIdx, fun a ha => ?_⟩
  · rw [hchange.byteAt, byteAt_store_inside hs v hp hq hk]
  · rw [hchange.byteAt, byteAt_store_outside hs v hp hq ha]

/-! ### Misaligned halfwords -/

theorem memRead_misaligned {a : Word} {w : Width} {st : State} {p : Nat} (hr : remap st.sys.memmap a = some p)
    (hm : plainMemory p) (hq : alignAddress w p = none) : memRead a w st = .stop .misaligned := by
  simp only [memRead, hr, hm, hq]

theorem memWrite_misaligned {a v : Word} {w : Width} {st : State} {p : Nat} (hr : remap st.sys.memmap a = some p)
    (hm : plainMemory p) (hq : alignAddress w p = none) : memWrite a w v st = .stop .misaligned := by
  simp only [memWrite, hr, hm, hq]

/-- A halfword has no place at an odd address (R74). -/
theorem alignAddress_half_odd {p : Nat} (h : p % 2 = 1) : alignAddress .half p = none := if_neg (by omega)

theorem RunsLoad.misaligned {i : Instr} {st : State} {w : Width} {ext : Word → Word} {rn rd : RegNum} {m : Address}
    {p : Nat} (h : RunsLoad i st w ext rn rd m) (hr : remap st.sys.memmap m.addr = some p) (hm : plainMemory p)
    (hq : alignAddress w p = none) : exec i st = .fault .misaligned := by
  rw [h.run, loadTransfer, memRead_misaligned hr hm hq]

theorem RunsStore.misaligned {i : Instr} {st : State} {w : Width} {rn rd : RegNum} {m : Address} {p : Nat}
    (h : RunsStore i st w rn rd m) (hr : remap st.sys.memmap m.addr = some p) (hm : plainMemory p)
    (hq : alignAddress w p = none) : exec i st = .fault .misaligned := by
  rw [h.run, storeTransfer, memWrite_misaligned hr hm hq]

end Sys2Proof.Machine
end

section
/-! PROOFS. The multiple transfers between registers and the memories (41_load_store.md R221 to R224), from any start address
(20_memory.md R74): what a block load puts in the registers, what a block store puts in memory. -/
namespace Sys2Proof.Machine

/-! ### The list and its addresses -/

/-- A number kept by a filter stands at the place that counts the numbers kept below it. -/
theorem getElem?_filter_range (keep : Nat → Bool) {n k : Nat} (hk : k < n) (hkeep : keep k = true) :
    ((List.range n).filter keep)[((List.range k).filter keep).length]? = some k := by
  induction n with
  | zero => omega
  | succ n ih =>
    rw [List.range_succ, List.filter_append]
    obtain rfl | hlt : k = n ∨ k < n := by omega
    · rw [List.getElem?_append_right (Nat.le_refl _), Nat.sub_self, List.filter_singleton, hkeep]
      rfl
    · obtain ⟨hlen, -⟩ := List.getElem?_eq_some_iff.mp (ih hlt)
      rw [List.getElem?_append_left hlen]
      exact ih hlt

/-- Register `k` of the list is transferred in its place (R221). -/
theorem blockRegs_getElem? {list : BitVec 16} {k : Nat} (hk : k < 15) (hin : list.getLsbD k = true) :
    (blockRegs list)[listRank list k]? = some (BitVec.ofNat 4 k) := by
  rw [blockRegs, List.getElem?_map, listRank, getElem?_filter_range (fun j => list.getLsbD j) hk hin]
  rfl

theorem mem_blockRegs {list : BitVec 16} {r : RegNum} (h : r ∈ blockRegs list) :
    ∃ k, k < 15 ∧ list.getLsbD k = true ∧ r = BitVec.ofNat 4 k := by
  simp only [blockRegs, List.mem_map, List.mem_filter, List.mem_range] at h
  obtain ⟨k, ⟨hk, hin⟩, rfl⟩ := h
  exact ⟨k, hk, hin, rfl⟩

theorem blockRegs_nodup (list : BitVec 16) : (blockRegs list).Nodup := by
  refine (List.nodup_range.filter _).map_on fun x hx y hy h => ?_
  have hx := List.mem_range.mp (List.mem_of_mem_filter hx)
  have hy := List.mem_range.mp (List.mem_of_mem_filter hy)
  have h := congrArg BitVec.toNat h
  rw [BitVec.toNat_ofNat, BitVec.toNat_ofNat] at h
  omega

/-- R15 is the last register of the list. -/
theorem blockCount_eq (list : BitVec 16) :
    blockCount list = (blockRegs list).length + if list.getLsbD 15 then 1 else 0 := by
  rw [blockCount, blockRegs, List.length_map, List.range_succ, List.filter_append, List.length_append,
    List.filter_singleton]
  cases list.getLsbD 15 <;> rfl

theorem blockCount_le (list : BitVec 16) : blockCount list ≤ 16 :=
  (List.length_filter_le ..).trans (List.length_range ..).le

theorem listRank_pc (list : BitVec 16) : listRank list 15 = (blockRegs list).length := by
  rw [listRank, blockRegs, List.length_map]

/-- The address of the next word but `j` is that of the word after. -/
theorem wordAddress_succ (a : Word) (j : Nat) :
    a + BitVec.ofNat 32 (4 * (j + 1)) = a + 4 + BitVec.ofNat 32 (4 * j) := by
  rw [Nat.mul_succ, Nat.add_comm, BitVec.ofNat_add, BitVec.add_assoc]
  rfl

theorem wordAddress_zero (a : Word) : a + BitVec.ofNat 32 (4 * 0) = a := BitVec.add_zero a

/-! ### Loading -/

theorem setRegIn_of_ne (st : State) (m : Mode) {r : RegNum} (hr : r ≠ 15) (v : Word) :
    st.setRegIn m r v = { st with regs := st.regs.set (physIndex m r) v } := by
  simp only [State.setRegIn, if_neg hr]

/-- The bank a `^` transfer uses (R223). -/
def transferBank (user : Bool) (st : State) : Mode := if user then .user else st.mode

/-- `t` is `s` with `regs` of mode `bank` loaded from the aligned words at ascending addresses from `a`. -/
structure BlockLoaded (s t : State) (bank : Mode) (regs : List RegNum) (a : Word) : Prop where
  change : ∃ rs, t = { s with regs := rs }
  loaded : ∀ j r q, regs[j]? = some r → remap s.sys.memmap (a + BitVec.ofNat 32 (4 * j)) = some q →
    t.regIn bank r = s.wordAt (q - q % 4)
  kept : ∀ m r, r ≠ 15 → (∀ x ∈ regs, physIndex m r ≠ physIndex bank x) → t.regIn m r = s.regIn m r

theorem blockLoaded_nil (s : State) (bank : Mode) (a : Word) : BlockLoaded s s bank [] a where
  change := ⟨s.regs, rfl⟩
  loaded j r q h := by simp only [List.getElem?_nil, reduceCtorEq] at h
  kept _ _ _ _ := rfl

/-- One register loaded, then the rest from the next address; later loads do not touch the first register. -/
theorem blockLoaded_cons {s t : State} {bank : Mode} {r : RegNum} {rest : List RegNum} {a : Word} {q : Nat}
    (hr : r ≠ 15) (hrest : ∀ x ∈ rest, x ≠ 15) (hnew : r ∉ rest) (hq : remap s.sys.memmap a = some q)
    (h : BlockLoaded (s.setRegIn bank r (s.wordAt (q - q % 4))) t bank rest (a + 4)) :
    BlockLoaded s t bank (r :: rest) a where
  change := by
    obtain ⟨rs, rfl⟩ := h.change
    exact ⟨rs, by rw [setRegIn_of_ne s bank hr]⟩
  loaded j x q' hx hq' := by
    cases j with
    | zero =>
      obtain rfl : r = x := Option.some.inj hx
      rw [wordAddress_zero, hq] at hq'
      obtain rfl := Option.some.inj hq'
      rw [h.kept bank r hr fun x hx he => hnew (physIndex_injective bank r x hr (hrest x hx) he ▸ hx),
        regIn_setRegIn_same]
    | succ j =>
      rw [wordAddress_succ] at hq'
      exact h.loaded j x q' hx hq'
  kept m x hx hout := by
    obtain ⟨hne, hout⟩ := List.forall_mem_cons.mp hout
    rw [h.kept m x hx hout, regIn_setRegIn s _ hr hx, if_neg hne.symm]

/-- Registers loaded from words of the memories: none of the reads aborts, and none changes the state. -/
theorem loadRegs_memory {user : Bool} {regs : List RegNum} {a : Word} {s : State} (hregs : ∀ r ∈ regs, r ≠ 15)
    (hnodup : regs.Nodup)
    (hmem : ∀ j, j < regs.length →
      ∃ q, remap s.sys.memmap (a + BitVec.ofNat 32 (4 * j)) = some q ∧ plainMemory q) :
    ∃ t, loadRegs user regs a s = .ok (a + BitVec.ofNat 32 (4 * regs.length)) t
      ∧ BlockLoaded s t (transferBank user s) regs a := by
  induction regs generalizing a s with
  | nil => exact ⟨s, by rw [loadRegs, List.length_nil, wordAddress_zero], blockLoaded_nil s _ a⟩
  | cons r rest ih =>
    obtain ⟨hr, hrest⟩ := List.forall_mem_cons.mp hregs
    obtain ⟨hnew, hnodup⟩ := List.nodup_cons.mp hnodup
    obtain ⟨q, hq, hm⟩ := hmem 0 (by simp)
    rw [wordAddress_zero] at hq
    have hset (v : Word) : (if user then s.setRegIn .user r v else s.setReg r v)
        = s.setRegIn (transferBank user s) r v := by
      cases user <;> rfl
    have hmem' (j : Nat) (hj : j < rest.length) :
        ∃ q, remap s.sys.memmap (a + 4 + BitVec.ofNat 32 (4 * j)) = some q ∧ plainMemory q := by
      rw [← wordAddress_succ]
      exact hmem (j + 1) (by simpa using hj)
    obtain ⟨t, ht, hloaded⟩ := ih (s := s.setRegIn (transferBank user s) r (s.wordAt (q - q % 4))) hrest hnodup hmem'
    refine ⟨t, ?_, blockLoaded_cons hr hrest hnew hq hloaded⟩
    rw [loadRegs, memRead_memory hq hm (alignAddress_word q)]
    simp only [Width.bytes, bytesAt_wordAt, hset]
    rw [ht, List.length_cons, wordAddress_succ]

/-! ### Storing -/

/-- `n` words from `a` do not run past 0xFFFFFFFF, and are no more than a list can name. -/
def BlockFits (a : Word) (n : Nat) : Prop := a.toNat - a.toNat % 4 + 4 * n ≤ 2 ^ 32 ∧ n ≤ 16

theorem BlockFits.succ {a : Word} {n : Nat} (h : BlockFits a (n + 1)) : BlockFits (a + 4) n := by
  obtain ⟨hfit, hn⟩ := h
  have hsum : (a + 4).toNat = (a.toNat + 4) % 2 ^ 32 := BitVec.toNat_add a 4
  refine ⟨?_, by omega⟩
  omega

/-- The words of a block are apart in memory too, since a block is too short to meet the remapped vectors twice (R88). -/
theorem BlockFits.apart {a : Word} {n : Nat} (h : BlockFits a n) {map : BitVec 2} {i j p q : Nat} (hi : i < n)
    (hj : j < n) (hne : i ≠ j) (hp : remap map (a + BitVec.ofNat 32 (4 * i)) = some p)
    (hq : remap map (a + BitVec.ofNat 32 (4 * j)) = some q) :
    p - p % 4 + 4 ≤ q - q % 4 ∨ q - q % 4 + 4 ≤ p - p % 4 := by
  obtain ⟨hfit, hn⟩ := h
  have hlt := a.isLt
  have hboot : bootBase = 0x7FFFE000 := rfl
  have hat {k : Nat} (hk : k < n) : (a + BitVec.ofNat 32 (4 * k)).toNat = a.toNat + 4 * k := by
    rw [BitVec.toNat_add, BitVec.toNat_ofNat]
    omega
  have hp := remap_some hp
  have hq := remap_some hq
  rw [hat hi] at hp
  rw [hat hj] at hq
  omega

/-- `t` is `s` with the words `vals` stored at the aligned ascending addresses from `a`. -/
structure BlockStored (s t : State) (vals : List Word) (a : Word) : Prop where
  change : ∃ mem pending, t = { s with mem := mem, sramPending := pending }
  legal : t.memoryLegal = true
  stored : ∀ j v q, vals[j]? = some v → remap s.sys.memmap (a + BitVec.ofNat 32 (4 * j)) = some q →
    t.wordAt (q - q % 4) = v
  kept : ∀ b, (∀ j, j < vals.length → ∀ q, remap s.sys.memmap (a + BitVec.ofNat 32 (4 * j)) = some q →
    b < q - q % 4 ∨ q - q % 4 + 4 ≤ b) → t.byteAt b = s.byteAt b

theorem blockStored_nil {s : State} (hs : s.memoryLegal = true) (a : Word) : BlockStored s s [] a where
  change := ⟨s.mem, s.sramPending, rfl⟩
  legal := hs
  stored j v q h := by simp only [List.getElem?_nil, reduceCtorEq] at h
  kept _ _ := rfl

theorem storeMemory_memoryLegal {st : State} (hs : st.memoryLegal = true) {w : Width} {p q : Nat} (v : Word)
    (hq : alignAddress w p = some q) : (storeMemory (regionOf p) q w v st).memoryLegal = true := by
  obtain ⟨hwf, hpending⟩ := memoryLegal_iff.mp hs
  exact memoryLegal_iff.mpr ⟨storeMemory_wf _ q w v st hwf, storeMemory_pendingInSram hpending v hq⟩

/-- One word stored. -/
theorem blockStored_one {s : State} (hs : s.memoryLegal = true) {a : Word} {p : Nat} (v : Word)
    (hr : remap s.sys.memmap a = some p) (hp : plainRam p) :
    BlockStored s (storeMemory (regionOf p) (p - p % 4) .word v s) [v] a where
  change := ⟨_, _, rfl⟩
  legal := storeMemory_memoryLegal hs v (alignAddress_word p)
  stored j x q hx hq := by
    obtain ⟨hj, rfl⟩ := List.getElem?_eq_some_iff.mp hx
    obtain rfl : j = 0 := by simpa using hj
    rw [wordAddress_zero, hr] at hq
    obtain rfl := Option.some.inj hq
    exact wordAt_of_bytes fun k hk => byteAt_store_inside hs v hp (alignAddress_word p) hk
  kept b hb := by
    have hout := hb 0 (by simp) p (by rwa [wordAddress_zero])
    exact byteAt_store_outside hs v hp (alignAddress_word p) hout

/-- Two blocks stored one after the other are one block: the second leaves the words of the first alone. -/
theorem BlockStored.append {s t u : State} {vs ws : List Word} {a : Word} (h : BlockStored s t vs a)
    (h' : BlockStored t u ws (a + BitVec.ofNat 32 (4 * vs.length))) (hfit : BlockFits a (vs.length + ws.length)) :
    BlockStored s u (vs ++ ws) a := by
  have hsys : t.sys = s.sys := by
    obtain ⟨_, _, rfl⟩ := h.change
    rfl
  have haddr (j : Nat) : a + BitVec.ofNat 32 (4 * vs.length) + BitVec.ofNat 32 (4 * j)
      = a + BitVec.ofNat 32 (4 * (vs.length + j)) := by
    rw [Nat.mul_add, BitVec.ofNat_add, BitVec.add_assoc]
  refine ⟨?_, h'.legal, fun j v q hv hq => ?_, fun b hb => ?_⟩
  · obtain ⟨_, _, rfl⟩ := h.change
    obtain ⟨_, _, rfl⟩ := h'.change
    exact ⟨_, _, rfl⟩
  · by_cases hj : j < vs.length
    · rw [List.getElem?_append_left hj] at hv
      rw [← h.stored j v q hv hq]
      refine wordAt_congr fun k hk => h'.kept _ fun i hi p hp => ?_
      rw [hsys, haddr] at hp
      have hapart := hfit.apart (by omega) (by omega) (by omega) hq hp
      omega
    · obtain ⟨i, rfl⟩ : ∃ i, j = vs.length + i := ⟨j - vs.length, by omega⟩
      rw [List.getElem?_append_right (by omega), Nat.add_sub_cancel_left] at hv
      exact h'.stored i v q hv (by rwa [hsys, haddr])
  · rw [h'.kept b fun i hi p hp => hb (vs.length + i) (by rw [List.length_append]; omega) p (by rwa [← haddr, ← hsys]),
      h.kept b fun i hi p hp => hb i (by rw [List.length_append]; omega) p hp]

/-- Registers stored to words of the RAMs outside the prefetch: none of the writes aborts. -/
theorem storeRegs_ram {user : Bool} {regs : List RegNum} {a : Word} {s : State} (hs : s.memoryLegal = true)
    (hfit : BlockFits a regs.length)
    (hram : ∀ j, j < regs.length → ∃ q, remap s.sys.memmap (a + BitVec.ofNat 32 (4 * j)) = some q ∧ plainRam q
      ∧ intoPrefetch (q - q % 4) s = false) :
    ∃ t, storeRegs user regs a s = .ok (a + BitVec.ofNat 32 (4 * regs.length)) t
      ∧ BlockStored s t (regs.map (s.regIn (transferBank user s))) a := by
  induction regs generalizing a s with
  | nil => exact ⟨s, by rw [storeRegs, List.length_nil, wordAddress_zero], blockStored_nil hs a⟩
  | cons r rest ih =>
    obtain ⟨q, hq, hp, hpre⟩ := hram 0 (by simp)
    rw [wordAddress_zero] at hq
    have hval : (if user then s.regIn .user r else s.reg r) = s.regIn (transferBank user s) r := by
      cases user <;> rfl
    have hone := blockStored_one hs (s.regIn (transferBank user s) r) hq hp
    have hram' (j : Nat) (hj : j < rest.length) :
        ∃ q, remap s.sys.memmap (a + 4 + BitVec.ofNat 32 (4 * j)) = some q ∧ plainRam q
          ∧ intoPrefetch (q - q % 4) s = false := by
      rw [← wordAddress_succ]
      exact hram (j + 1) (by simpa using hj)
    obtain ⟨t, ht, hstored⟩ := ih hone.legal hfit.succ hram'
    refine ⟨t, ?_, hone.append hstored ?_⟩
    · rw [storeRegs, hval, memWrite_ram hq hp (alignAddress_word q) hpre]
      simp only
      rw [ht, List.length_cons, wordAddress_succ]
    · rw [List.length_map, List.length_singleton, Nat.add_comm]
      exact hfit

end Sys2Proof.Machine
end

section
/-! PROOFS. LDM and STM in the memories (41_load_store.md R222 to R224): the list, the base and R15. -/
namespace Sys2Proof.Machine

/-! ### Start and bank -/

/-- The bank an LDM loads: with R15 in the list `^` asks for the return instead (R222, R223). -/
theorem transferBank_eq_ite (sb b : Bool) (s : State) :
    transferBank (sb && !b) s = if sb = true ∧ b = false then .user else s.mode := by
  cases sb <;> cases b <;> rfl

/-- The four starts, as the statements write them (R221). -/
theorem blockStart_eq_ite (p u : Bool) (base : Word) (n : Nat) :
    blockStart p u base n = if u then (if p then base + 4 else base)
      else (if p then base - BitVec.ofNat 32 (4 * n) else base - BitVec.ofNat 32 (4 * n) + 4) := by
  cases p <;> cases u <;> rfl

/-! ### LDM -/

/-- `t` is `s` after an LDM from `start`, but for what R15 and the marks receive: the listed registers of mode `bank` loaded,
the base `rn` written back if `wb` says so, every other register as before. -/
structure ListLoaded (s t : State) (bank : Mode) (list : BitVec 16) (start : Word) (rn : RegNum) (wb : Option Word) :
    Prop where
  loaded : ∀ k, k < 15 → list.getLsbD k = true →
    ∀ q, remap s.sys.memmap (start + BitVec.ofNat 32 (4 * listRank list k)) = some q →
      t.regIn bank (BitVec.ofNat 4 k) = s.wordAt (q - q % 4)
  base : ∀ v, wb = some v → t.regIn s.mode rn = v
  kept : ∀ m r, r ≠ 15 → (∀ k, k < 15 → list.getLsbD k = true → physIndex m r ≠ physIndex bank (BitVec.ofNat 4 k)) →
    (wb.isSome = true → physIndex m r ≠ physIndex s.mode rn) → t.regIn m r = s.regIn m r

/-- Only the general registers count, so what R15 and the marks receive afterwards does not matter. -/
theorem ListLoaded.of_regs {s t u : State} {bank : Mode} {list : BitVec 16} {start : Word} {rn : RegNum}
    {wb : Option Word} (h : ListLoaded s t bank list start rn wb) (hrn : rn ≠ 15) (hregs : u.regs = t.regs) :
    ListLoaded s u bank list start rn wb := by
  have hsame (m : Mode) {r : RegNum} (hr : r ≠ 15) : u.regIn m r = t.regIn m r := by
    rw [regIn_of_ne _ _ _ hr, regIn_of_ne _ _ _ hr, hregs]
  refine ⟨fun k hk hin q hq => ?_, fun v hv => ?_, fun m r hr hout hne => ?_⟩
  · rw [hsame _ (blockRegs_ne_pc (List.mem_of_getElem? (blockRegs_getElem? hk hin)))]
    exact h.loaded k hk hin q hq
  · rw [hsame _ hrn]
    exact h.base v hv
  · rw [hsame _ hr]
    exact h.kept m r hr hout hne

/-- The base written back after the list is loaded: it is in the bank of the list and not in the list (R222, R223). -/
theorem listLoaded_writeBase {s mid : State} {bank : Mode} {list : BitVec 16} {start : Word} {rn : RegNum}
    {wb : Option Word} (h : BlockLoaded s mid bank (blockRegs list) start)
    (hbase : wb.isSome = true → rn ≠ 15 ∧ bank = s.mode ∧ rn ∉ blockRegs list) :
    (∃ rs, writeBase rn wb mid = { s with regs := rs }) ∧ ListLoaded s (writeBase rn wb mid) bank list start rn wb := by
  obtain ⟨rs, rfl⟩ := h.change
  have hmem {k : Nat} (hk : k < 15) (hin : list.getLsbD k = true) : BitVec.ofNat 4 k ∈ blockRegs list :=
    List.mem_of_getElem? (blockRegs_getElem? hk hin)
  have hloaded {k : Nat} (hk : k < 15) (hin : list.getLsbD k = true) {q : Nat}
      (hq : remap s.sys.memmap (start + BitVec.ofNat 32 (4 * listRank list k)) = some q) :=
    h.loaded _ _ q (blockRegs_getElem? hk hin) hq
  have hkept {m : Mode} {r : RegNum} (hr : r ≠ 15)
      (hout : ∀ k, k < 15 → list.getLsbD k = true → physIndex m r ≠ physIndex bank (BitVec.ofNat 4 k)) :=
    h.kept m r hr fun x hx => by
      obtain ⟨k, hk, hin, rfl⟩ := mem_blockRegs hx
      exact hout k hk hin
  cases wb with
  | none =>
    exact ⟨⟨rs, rfl⟩, fun k hk hin q hq => hloaded hk hin hq, fun v hv => (by cases hv),
      fun m r hr hout _ => hkept hr hout⟩
  | some v =>
    obtain ⟨hrn, rfl, hnew⟩ := hbase rfl
    refine ⟨⟨_, setRegIn_of_ne _ _ hrn v⟩, fun k hk hin q hq => ?_, fun v' hv => ?_, fun m r hr hout hne => ?_⟩
    · rw [← hloaded hk hin hq]
      exact regIn_setRegIn_other _ _ _ _ _ fun he => hnew (he ▸ hmem hk hin)
    · obtain rfl := Option.some.inj hv
      exact regIn_setRegIn_same _ _ _ _
    · rw [← hkept hr hout]
      exact (regIn_setRegIn _ _ hrn hr).trans (if_neg (hne rfl).symm)

theorem checkLdm_base {sb w : Bool} {rn : RegNum} {list : BitVec 16} (h : checkLdm sb w rn list = none) (hw : w = true) :
    rn ∉ blockRegs list ∧ (sb && !list.getLsbD 15) = false := by
  subst hw
  have hin := firstFailing_none h (bad := true && inList list rn) (why := .loadBaseInList) (by simp)
  have hbank := firstFailing_none h (bad := sb && true && !list.getLsbD 15) (why := .userBankWriteback) (by simp)
  refine ⟨fun hmem => ?_, by simpa only [Bool.and_true] using hbank⟩
  obtain ⟨k, hk, hk', rfl⟩ := mem_blockRegs hmem
  rw [Bool.true_and, inList, BitVec.toNat_ofNat, Nat.mod_eq_of_lt (by omega), hk'] at hin
  cases hin

/-- What an LDM or STM asks of the state before its first access (R37, R103). -/
def BlockStarts (sb : Bool) (start : Word) (n : Nat) (s : State) : Prop :=
  (sb = true → s.currentSpsr.isSome = true) ∧ start.toNat - start.toNat % 4 + 4 * n ≤ 2 ^ 32

theorem BlockStarts.no_stop {sb : Bool} {start : Word} {n : Nat} {s : State} (h : BlockStarts sb start n s) :
    (sb && s.currentSpsr.isNone) = false ∧ blockWraps start n = false := by
  obtain ⟨hspsr, hfit⟩ := h
  refine ⟨?_, decide_eq_false (by omega)⟩
  cases sb with
  | false => rfl
  | true => rw [Bool.true_and, Option.isNone_eq_false_iff, hspsr rfl]

/-- An LDM with its words in the memories loads the list and comes to its end with the base written back. -/
theorem loadBlock_memory {p u sb w : Bool} {rn : RegNum} {list : BitVec 16} {s : State}
    (hcheck : checkLdm sb w rn list = none) {base start : Word} (hstart : blockStart p u base (blockCount list) = start)
    (hfit : BlockStarts sb start (blockCount list) s)
    (hmem : ∀ j, j < blockCount list →
      ∃ q, remap s.sys.memmap (start + BitVec.ofNat 32 (4 * j)) = some q ∧ plainMemory q)
    {wb : Option Word} (hwb : wb = if w then some (blockEnd u base (blockCount list)) else none) :
    ∃ mid, (∃ rs, mid = { s with regs := rs }) ∧ (∃ rs, writeBase rn wb mid = { s with regs := rs })
      ∧ ListLoaded s (writeBase rn wb mid) (transferBank (sb && !list.getLsbD 15) s) list start rn wb
      ∧ loadBlock p u sb w rn list base s
        = finishLdm sb rn wb list (start + BitVec.ofNat 32 (4 * (blockRegs list).length)) mid := by
  obtain ⟨hspsr, hwraps⟩ := hfit.no_stop
  have hcount := blockCount_eq list
  obtain ⟨mid, hload, hloaded⟩ := loadRegs_memory (user := sb && !list.getLsbD 15) (fun _ => blockRegs_ne_pc)
    (blockRegs_nodup list) fun j hj => hmem j (by omega)
  have hbase : wb.isSome = true →
      rn ≠ 15 ∧ transferBank (sb && !list.getLsbD 15) s = s.mode ∧ rn ∉ blockRegs list := fun hsome => by
    have hw : w = true := by
      cases w
      · rw [hwb] at hsome
        cases hsome
      · rfl
    obtain ⟨hnew, hbank⟩ := checkLdm_base hcheck hw
    exact ⟨checkLdm_rn hcheck, by rw [hbank]; rfl, hnew⟩
  obtain ⟨hchange, hlist⟩ := listLoaded_writeBase hloaded hbase
  refine ⟨mid, hloaded.change, hchange, hlist, ?_⟩
  simp only [loadBlock, hstart, hspsr, hwraps, hload, ← hwb, Bool.false_eq_true, if_false]

/-- The end of an LDM without R15. -/
theorem finishLdm_advance {sb : Bool} {rn : RegNum} {wb : Option Word} {list : BitVec 16} {a : Word} {mid : State}
    (h15 : list.getLsbD 15 = false) :
    finishLdm sb rn wb list a mid = advance { writeBase rn wb mid with userBankLdm := sb } := by
  simp only [finishLdm, h15, Bool.false_eq_true, if_false]

/-- The end of an LDM with R15, its word in a memory: a branch, or with `^` a return. -/
theorem finishLdm_branch {sb : Bool} {rn : RegNum} {wb : Option Word} {list : BitVec 16} {a : Word} {mid : State}
    (h15 : list.getLsbD 15 = true) {q : Nat} (hq : remap mid.sys.memmap a = some q) (hm : plainMemory q) :
    finishLdm sb rn wb list a mid
      = if sb then exceptionReturn (mid.wordAt (q - q % 4)) (writeBase rn wb mid)
        else branchTo (mid.wordAt (q - q % 4)) (writeBase rn wb mid) := by
  simp only [finishLdm, h15, if_true, memRead_memory hq hm (alignAddress_word q), Width.bytes, bytesAt_wordAt]

/-- A ready LDM with its words in the memories: the list loaded and the base written back, and then the advance, or the
branch or return to the word loaded for R15. -/
theorem exec_ldm_memory {c : Cond} {p u sb w : Bool} {rn : RegNum} {list : BitVec 16} {s : State}
    (hready : Ready (.ldm c p u sb w rn list) s) {start : Word}
    (hstart : blockStart p u (s.reg rn) (blockCount list) = start) (hfit : BlockStarts sb start (blockCount list) s)
    (hmem : ∀ j, j < blockCount list →
      ∃ q, remap s.sys.memmap (start + BitVec.ofNat 32 (4 * j)) = some q ∧ plainMemory q) :
    ∃ rs, ListLoaded s { s with regs := rs } (transferBank (sb && !list.getLsbD 15) s) list start rn
        (if w then some (blockEnd u (s.reg rn) (blockCount list)) else none)
      ∧ (list.getLsbD 15 = false →
        exec (.ldm c p u sb w rn list) s = advance { s with regs := rs, userBankLdm := sb })
      ∧ (list.getLsbD 15 = true →
        ∀ last, remap s.sys.memmap (start + BitVec.ofNat 32 (4 * (blockCount list - 1))) = some last →
          exec (.ldm c p u sb w rn list) s
            = if sb then exceptionReturn (s.wordAt (last - last % 4)) { s with regs := rs }
              else branchTo (s.wordAt (last - last % 4)) { s with regs := rs }) := by
  have hcheck : checkLdm sb w rn list = none := hready.illFormed
  obtain ⟨_, ⟨rs₀, rfl⟩, ⟨rs, hrs⟩, hlist, hblock⟩ := loadBlock_memory hcheck hstart hfit hmem rfl
  have hexec := exec_of_ready hready rfl fun _ => rfl
  rw [readReg_of_ne s (checkLdm_rn hcheck), hblock] at hexec
  have hcount := blockCount_eq list
  refine ⟨rs, hrs ▸ hlist, fun h15 => ?_, fun h15 last hlast => ?_⟩
  · rw [hexec, finishLdm_advance h15, hrs]
  · rw [if_pos h15] at hcount
    rw [hcount, Nat.add_sub_cancel] at hlast
    obtain ⟨q, hq, hm⟩ := hmem (blockRegs list).length (by omega)
    obtain rfl := Option.some.inj (hlast.symm.trans hq)
    rw [hexec, finishLdm_branch (mid := { s with regs := rs₀ }) h15 hlast hm, hrs]
    rfl

/-- A return to a target the restored state can have, or, in Thumb state, to an odd one (R438, R253). -/
theorem exceptionReturn_of_spsr {x psr : Word} {st : State} (hpsr : st.currentSpsr = some psr)
    (hmode : (modeOf psr).isSome = true) (hx : psr.getLsbD 5 = true ∨ x.extractLsb' 0 2 = 0) :
    ∃ pc n, exceptionReturn x st = .next { st with cpsr := psr, pc := pc, freeIdx := n }
      ∧ (psr.getLsbD 5 = true ∧ x.getLsbD 0 = true → pc.getLsbD 0 = false)
      ∧ (psr.getLsbD 5 = false ∨ x.getLsbD 0 = false → pc = x ∧ n = st.freeIdx) := by
  obtain ⟨m, hm⟩ := Option.isSome_iff_exists.mp hmode
  by_cases ha : alignedFor psr x = true
  · refine ⟨x, st.freeIdx, by simp only [exceptionReturn, hpsr, hm, ha, if_true], fun h => ?_, fun _ => ⟨rfl, rfl⟩⟩
    exact getLsbD_zero_eq_false_iff.mpr (alignedFor_iff.mp ha).1
  · have hT : psr.getLsbD 5 = true := hx.resolve_right fun hx => ha (alignedFor_of_word hx psr)
    have hodd : x.getLsbD 0 = true := by
      by_contra h
      exact ha (by rw [alignedFor, if_pos hT, Bool.eq_false_iff.mpr h, Bool.not_false])
    refine ⟨st.free &&& 0xFFFFFFFE, st.freeIdx + 1, ?_, fun _ => ?_, fun h => ?_⟩
    · simp only [exceptionReturn, hpsr, hm, ha, hT, if_true]
      rfl
    · exact getLsbD_zero_eq_false_iff.mpr (toNat_clearBit_even st.free)
    · rw [hT, hodd] at h
      simp only [Bool.true_eq_false, or_self] at h

/-! ### STM -/

/-- The words an STM transfers, in order: the listed registers, and for R15 the address of the instruction plus 12 (R30). -/
def storedWords (sb : Bool) (list : BitVec 16) (s : State) : List Word :=
  (blockRegs list).map (s.regIn (transferBank sb s)) ++ if list.getLsbD 15 then [s.pc + 12] else []

theorem storedWords_length (sb : Bool) (list : BitVec 16) (s : State) :
    (storedWords sb list s).length = blockCount list := by
  rw [storedWords, List.length_append, List.length_map, blockCount_eq]
  cases list.getLsbD 15 <;> rfl

/-- Each register's word stands in the register's place. -/
theorem storedWords_getElem? {sb : Bool} {list : BitVec 16} (s : State) {k : Nat} (hk : k < 16)
    (hin : list.getLsbD k = true) :
    (storedWords sb list s)[listRank list k]?
      = some (if k = 15 then s.pc + 12 else s.regIn (transferBank sb s) (BitVec.ofNat 4 k)) := by
  obtain rfl | hlt : k = 15 ∨ k < 15 := by omega
  · rw [storedWords, listRank_pc, List.getElem?_append_right (by rw [List.length_map]), List.length_map, Nat.sub_self,
      if_pos hin, if_pos rfl]
    rfl
  · have hget := blockRegs_getElem? hlt hin
    obtain ⟨hlen, -⟩ := List.getElem?_eq_some_iff.mp hget
    rw [storedWords, List.getElem?_append_left (by rwa [List.length_map]), List.getElem?_map, hget, if_neg (by omega)]
    rfl

/-- R15 stored after other words: the datum and the place are those of the state before them. -/
theorem BlockStored.store_pc {s mid : State} {vals : List Word} {start a : Word} (h : BlockStored s mid vals start)
    {q : Nat} (hq : remap s.sys.memmap a = some q) (hp : plainRam q) (hpre : intoPrefetch (q - q % 4) s = false) :
    ∃ t, memWrite a .word (mid.storeReg 15) mid = .ok () t ∧ BlockStored mid t [s.pc + 12] a := by
  have hlegal := h.legal
  obtain ⟨_, _, rfl⟩ := h.change
  exact ⟨_, memWrite_ram hq hp (alignAddress_word q) hpre, blockStored_one hlegal (s.pc + 12) hq hp⟩

/-- An STM with its words in the RAMs, outside the prefetch, stores them all and comes to its end. -/
theorem storeBlock_ram {p u sb w : Bool} {rn : RegNum} {list : BitVec 16} {s : State} (hs : s.memoryLegal = true)
    {base start : Word} (hstart : blockStart p u base (blockCount list) = start)
    (hfit : BlockStarts sb start (blockCount list) s)
    (hram : ∀ j, j < blockCount list → ∃ q, remap s.sys.memmap (start + BitVec.ofNat 32 (4 * j)) = some q ∧ plainRam q
      ∧ intoPrefetch (q - q % 4) s = false) :
    ∃ t, BlockStored s t (storedWords sb list s) start
      ∧ storeBlock p u sb w rn list base s
        = advance (writeBase rn (if w then some (blockEnd u base (blockCount list)) else none) t) := by
  obtain ⟨hspsr, hwraps⟩ := hfit.no_stop
  have hcount := blockCount_eq list
  have hle := blockCount_le list
  obtain ⟨-, hroom⟩ := hfit
  have hfits : BlockFits start (blockCount list) := ⟨hroom, hle⟩
  have hregs : BlockFits start (blockRegs list).length := ⟨by omega, by omega⟩
  obtain ⟨mid, hstore, hstored⟩ := storeRegs_ram (user := sb) hs hregs fun j hj => hram j (by omega)
  by_cases h15 : list.getLsbD 15 = true
  · rw [if_pos h15] at hcount
    obtain ⟨q, hq, hp, hpre⟩ := hram (blockRegs list).length (by omega)
    obtain ⟨t, hwrite, hlast⟩ := hstored.store_pc hq hp hpre
    refine ⟨t, ?_, ?_⟩
    · rw [storedWords, if_pos h15]
      refine hstored.append (by rwa [List.length_map]) ?_
      rwa [List.length_map, List.length_singleton, ← hcount]
    · simp only [storeBlock, hstart, hspsr, hwraps, hstore, finishStm, h15, if_true, hwrite, Bool.false_eq_true, if_false]
  · refine ⟨mid, ?_, ?_⟩
    · rwa [storedWords, if_neg h15, List.append_nil]
    · simp only [storeBlock, hstart, hspsr, hwraps, hstore, finishStm, h15, Bool.false_eq_true, if_false]

/-- A ready STM with its words in the RAMs, outside the prefetch: each register's word in its place, the base written back, and
nothing else. -/
theorem exec_stm_ram {c : Cond} {p u sb w : Bool} {rn : RegNum} {list : BitVec 16} {s : State}
    (hready : Ready (.stm c p u sb w rn list) s) (hs : s.memoryLegal = true) (hpc : s.pc ≠ 0xFFFFFFFC) {start : Word}
    (hstart : blockStart p u (s.reg rn) (blockCount list) = start) (hfit : BlockStarts sb start (blockCount list) s)
    (hram : ∀ j, j < blockCount list → ∃ q, remap s.sys.memmap (start + BitVec.ofNat 32 (4 * j)) = some q ∧ plainRam q
      ∧ intoPrefetch (q - q % 4) s = false) :
    ∃ t, exec (.stm c p u sb w rn list) s = .next t
      ∧ (∀ k, k < 16 → list.getLsbD k = true →
        ∀ q, remap s.sys.memmap (start + BitVec.ofNat 32 (4 * listRank list k)) = some q →
          t.wordAt (q - q % 4) = if k = 15 then s.pc + 12 else s.regIn (transferBank sb s) (BitVec.ofNat 4 k))
      ∧ (∀ a, (∀ j, j < blockCount list →
          ∀ q, remap s.sys.memmap (start + BitVec.ofNat 32 (4 * j)) = some q → a < q - q % 4 ∨ q - q % 4 + 4 ≤ a) →
        t.byteAt a = s.byteAt a)
      ∧ (w = true → t.reg rn = blockEnd u (s.reg rn) (blockCount list)) ∧ RegistersKept s t (if w then [rn] else [])
      ∧ t.pc = s.pc + 4 ∧ t.cpsr = s.cpsr ∧ t.spsr = s.spsr ∧ t.userBankLdm = s.userBankLdm ∧ t.freeIdx = s.freeIdx
      ∧ DevicesKept s t := by
  have hrn : rn ≠ 15 := checkStm_rn hready.illFormed
  obtain ⟨mid, hstored, hblock⟩ := storeBlock_ram (w := w) (rn := rn) hs hstart hfit hram
  have hexec := exec_of_ready hready rfl fun _ => rfl
  rw [readReg_of_ne s hrn, hblock] at hexec
  obtain ⟨mem, pending, rfl⟩ := hstored.change
  obtain ⟨t, hnext, hchange, hpc', hbase, hkept⟩ := advance_writeBase (st := { s with mem := mem, sramPending := pending })
    (m := { addr := start, wb := if w then some (blockEnd u (s.reg rn) (blockCount list)) else none }) (fun _ => hrn) hpc
  refine ⟨t, hexec.trans hnext, fun k hk hin q hq => ?_, fun a ha => ?_, fun hw => hbase _ (if_pos hw), ?_, hpc',
    hchange.cpsr, hchange.spsr, hchange.userBankLdm, hchange.freeIdx, hchange.devicesKept⟩
  · rw [wordAt_congr fun j _ => hchange.byteAt _]
    exact hstored.stored _ _ q (storedWords_getElem? s hk hin) hq
  · rw [hchange.byteAt]
    exact hstored.kept a fun j hj => ha j (by rwa [storedWords_length] at hj)
  · cases w
    · exact hkept
    · exact hkept

end Sys2Proof.Machine
end

section
/-! PROOFS. The misaligned accesses (20_memory.md R74, 92_eei_decisions.md D2). -/
namespace Sys2Proof.Machine

/-- Settles O37: LDR rotates the aligned word, STR stores to it, a halfword has no place at an odd address, and the blocks
transfer the aligned words of their addresses. -/
theorem misalignedTransfers : Obligations.MisalignedTransfers := by
  unfold Obligations.MisalignedTransfers
  intro c p u sb w rn rd rm imm12 imm8 off list s rotates truncates stopsAtOdd
  have rotate {i : Instr} {m : Address} (h : Ready i s → RunsLoad i s .word (rotateLoaded m.addr) rn rd m) :
      rotates i m := by
    intro hready q hr hm x
    have hbase := (h hready).base
    have hexec : exec i s = writeLoaded rd x (writeBase rn m.wb s) := by
      rw [(h hready).memory hr hm (alignAddress_word q), rotateLoaded_of_remap hr, Width.bytes, bytesAt_wordAt]
    refine ⟨fun hrd hpc => ?_, fun hrd hx => ?_, fun hrd hx => ?_⟩
    · rw [hexec]
      exact writeLoaded_register hbase hrd hpc x
    · rw [hexec, hrd]
      exact writeLoaded_branch (fun hwb => (hbase hwb).1) hx
    · rw [hexec, hrd]
      exact writeLoaded_misaligned hx
  have truncate {i : Instr} {m : Address} (h : Ready i s → RunsStore i s .word rn rd m) : truncates i m := by
    intro hready hs hpc q hr hp hpre
    have hq := alignAddress_word q
    obtain ⟨t, hnext, hbytes, hbase, hpc', hkept⟩ :=
      stored_writeBase hs (fun hwb => ((h hready).base hwb).1) hpc (s.storeReg rd) hp hq
    exact ⟨t, ((h hready).ram hr hp hq hpre).trans hnext, wordAt_of_bytes hbytes, hbase, hpc', hkept⟩
  have oddLoad {i : Instr} {m : Address} {ext : Word → Word} (h : Ready i s → RunsLoad i s .half ext rn rd m) :
      stopsAtOdd i m := fun hready q hr hm hodd => (h hready).misaligned hr hm (alignAddress_half_odd hodd)
  have oddStore {i : Instr} {m : Address} (h : Ready i s → RunsStore i s .half rn rd m) :
      stopsAtOdd i m := fun hready q hr hm hodd => (h hready).misaligned hr hm (alignAddress_half_odd hodd)
  refine ⟨?ldrImmPre, ?ldrImmPost, ?ldrRegPre, ?ldrRegPost, ?strImmPre, ?strImmPost, ?strRegPre, ?strRegPost,
    ?ldrhImmPre, ?ldrhImmPost, ?ldrhRegPre, ?ldrhRegPost, ?ldrshImmPre, ?ldrshImmPost, ?ldrshRegPre, ?ldrshRegPost,
    ?strhImmPre, ?strhImmPost, ?strhRegPre, ?strhRegPost, ?block⟩
  case ldrImmPre | ldrRegPre => exact rotate fun h => runsLoad_of_ready h rfl (fun _ => rfl) rfl fun hi => baseAllowed_pre hi
  case ldrImmPost | ldrRegPost => exact rotate fun h => runsLoad_of_ready h rfl (fun _ => rfl) rfl fun hi => baseAllowed_post hi
  case strImmPre | strRegPre => exact truncate fun h => runsStore_of_ready h rfl (fun _ => rfl) rfl fun hi => baseAllowed_pre hi
  case strImmPost | strRegPost => exact truncate fun h => runsStore_of_ready h rfl (fun _ => rfl) rfl fun hi => baseAllowed_post hi
  case ldrhImmPre | ldrhRegPre | ldrshImmPre | ldrshRegPre =>
    exact oddLoad fun h => runsLoad_of_ready h rfl (fun _ => rfl) rfl fun hi => baseAllowed_pre hi
  case ldrhImmPost | ldrhRegPost | ldrshImmPost | ldrshRegPost =>
    exact oddLoad fun h => runsLoad_of_ready h rfl (fun _ => rfl) rfl fun hi => baseAllowed_post hi
  case strhImmPre | strhRegPre => exact oddStore fun h => runsStore_of_ready h rfl (fun _ => rfl) rfl fun hi => baseAllowed_pre hi
  case strhImmPost | strhRegPost => exact oddStore fun h => runsStore_of_ready h rfl (fun _ => rfl) rfl fun hi => baseAllowed_post hi
  case block =>
    intro n bytes start final inBank outBank loaded hfit hspsr
    have hstart : blockStart p u (s.reg rn) (blockCount list) = start := blockStart_eq_ite p u (s.reg rn) n
    have hstarts : BlockStarts sb start (blockCount list) s := ⟨hspsr, hfit⟩
    refine ⟨fun hready hmem => ?ldm, fun hready hs hpc hram => ?stm⟩
    case ldm =>
      obtain ⟨rs, hlist, hadvance, hbranch⟩ := exec_ldm_memory hready hstart hstarts hmem
      have hbank : transferBank (sb && !list.getLsbD 15) s = inBank := transferBank_eq_ite sb _ s
      have hrn : rn ≠ 15 := checkLdm_rn hready.illFormed
      rw [hbank] at hlist
      have hloaded (pc cpsr : Word) (mark : Bool) (idx : Nat) :
          loaded { s with regs := rs, pc := pc, cpsr := cpsr, userBankLdm := mark, freeIdx := idx } := by
        have h := hlist.of_regs hrn
          (u := { s with regs := rs, pc := pc, cpsr := cpsr, userBankLdm := mark, freeIdx := idx }) rfl
        refine ⟨h.loaded, fun hw => h.base _ (if_pos hw), fun m r hr hout hne => h.kept m r hr hout fun hw => hne ?_,
          rfl, ⟨rfl, rfl, fun _ => rfl⟩, ⟨rfl, rfl, rfl, rfl, rfl, rfl, rfl⟩⟩
        cases w
        · cases hw
        · rfl
      refine ⟨fun h15 hpc => ⟨_, (hadvance h15).trans (advance_of_ne hpc), hloaded .., rfl, rfl, rfl, rfl⟩,
        fun h15 last hlast => ?_⟩
      intro x
      refine ⟨fun hsb hx => ?_, fun psr hsb hpsr hmode hx => ?_⟩
      · have hexec := (hbranch h15 last hlast).trans (if_neg (Bool.eq_false_iff.mp hsb))
        exact ⟨_, hexec.trans (branchTo_next.mpr ⟨hx, rfl⟩), hloaded .., rfl, rfl, rfl, rfl⟩
      · have hexec := (hbranch h15 last hlast).trans (if_pos hsb)
        obtain ⟨pc, idx, hreturn, hodd, htarget⟩ :=
          exceptionReturn_of_spsr (st := { s with regs := rs }) hpsr hmode hx
        exact ⟨_, hexec.trans hreturn, hloaded .., rfl, rfl, hodd, htarget⟩
    case stm =>
      exact exec_stm_ram hready hs hpc hstart hstarts hram

end Sys2Proof.Machine
end

section
/-! PROOFS. The layout of instruction words: for every format of the encoding tables (30_encoding.md R124 to R146), the word
the encoder writes is `w` just if the fields of `w` that the decoder reads are the operands. Read forwards this decodes what
was encoded; read backwards it encodes what was decoded. -/
namespace Sys2Proof

/-! ### A concatenation and the fields of a word -/

/-- A concatenation is a field just if its parts are the two halves of that field. (The widths are kept out of `simp`'s index:
an encoder's word has width 32 and its parts a sum of numerals.) -/
theorem append_eq_field_iff (w : Word) (lo : Nat) {a b : Nat} (x : BitVec a) (y : BitVec b) :
    @Eq (BitVec (no_index (a + b))) (x ++ y) (field w lo (no_index (a + b)))
      ↔ x = field w (lo + b) a ∧ y = field w lo b := by
  have hsplit : field w (lo + b) a ++ field w lo b = field w lo (a + b) :=
    BitVec.extractLsb'_append_extractLsb'_eq_extractLsb' rfl
  constructor
  · intro h
    rw [← hsplit] at h
    have hhigh := congrArg (BitVec.extractLsb' b a) h
    have hlow := congrArg (BitVec.extractLsb' 0 b) h
    rw [BitVec.extractLsb'_append_eq_left, BitVec.extractLsb'_append_eq_left] at hhigh
    rw [BitVec.extractLsb'_append_eq_right, BitVec.extractLsb'_append_eq_right] at hlow
    exact ⟨hhigh, hlow⟩
  · rintro ⟨rfl, rfl⟩
    exact hsplit

theorem bit_eq_field_iff (w : Word) (k : Nat) (b : Bool) : bit b = field w k 1 ↔ b = w.getLsbD k := by
  have h : field w k 1 = bit (w.getLsbD k) := by
    apply BitVec.eq_of_getLsbD_eq
    intro i hi
    obtain rfl : i = 0 := by omega
    simp [field]
  rw [h]
  cases b <;> cases w.getLsbD k <;> decide

theorem zero_eq_field_iff (w : Word) (k : Nat) : 0#1 = field w k 1 ↔ false = w.getLsbD k := bit_eq_field_iff w k false

theorem one_eq_field_iff (w : Word) (k : Nat) : 1#1 = field w k 1 ↔ true = w.getLsbD k := bit_eq_field_iff w k true

theorem eq_iff_eq_field {x w : Word} : x = w ↔ x = field w 0 32 := by rw [field, extract_all]

/-- A field of a field. -/
theorem field_of_field {w : Word} {lo n : Nat} {x : BitVec n} (hx : x = field w lo n) (k m : Nat) (h : k + m ≤ n) :
    field w (lo + k) m = x.extractLsb' k m := by
  subst hx
  apply BitVec.eq_of_getLsbD_eq
  intro i hi
  have hin : k + i < n := by omega
  simp [field, hi, hin, Nat.add_assoc]

/-- A bit of a field. -/
theorem getLsbD_of_field {w : Word} {lo n : Nat} {x : BitVec n} (hx : x = field w lo n) (k : Nat) (h : k < n) :
    w.getLsbD (lo + k) = x.getLsbD k := by
  subst hx
  simp [field, h]

/-! ### The layout of each format, in the fields that the decoder reads -/

theorem encDpImm_eq_iff {w : Word} {c : Cond} {o : BitVec 4} {s : Bool} {rn rd : RegNum} {op : RotImm} :
    encDpImm c o s rn rd op = w ↔ c.bits = field w 28 4 ∧ 0b001#3 = field w 25 3 ∧ o = field w 21 4 ∧ s = w.getLsbD 20
      ∧ rn = field w 16 4 ∧ rd = field w 12 4 ∧ op.rot = field w 8 4 ∧ op.imm8 = field w 0 8 := by
  rw [eq_iff_eq_field, encDpImm]
  simp only [append_eq_field_iff, bit_eq_field_iff, and_assoc]

theorem encDpShiftImm_eq_iff {w : Word} {c : Cond} {o : BitVec 4} {s : Bool} {rn rd : RegNum} {op : ShiftImm} :
    encDpShiftImm c o s rn rd op = w ↔ c.bits = field w 28 4 ∧ 0b000#3 = field w 25 3 ∧ o = field w 21 4
      ∧ s = w.getLsbD 20 ∧ rn = field w 16 4 ∧ rd = field w 12 4 ∧ op.amount = field w 7 5
      ∧ op.kind.bits = field w 5 2 ∧ false = w.getLsbD 4 ∧ op.rm = field w 0 4 := by
  rw [eq_iff_eq_field, encDpShiftImm]
  simp only [append_eq_field_iff, bit_eq_field_iff, zero_eq_field_iff, and_assoc]

theorem encDpShiftReg_eq_iff {w : Word} {c : Cond} {o : BitVec 4} {s : Bool} {rn rd : RegNum} {op : ShiftReg} :
    encDpShiftReg c o s rn rd op = w ↔ c.bits = field w 28 4 ∧ 0b000#3 = field w 25 3 ∧ o = field w 21 4
      ∧ s = w.getLsbD 20 ∧ rn = field w 16 4 ∧ rd = field w 12 4 ∧ op.rs = field w 8 4 ∧ false = w.getLsbD 7
      ∧ op.kind.bits = field w 5 2 ∧ true = w.getLsbD 4 ∧ op.rm = field w 0 4 := by
  rw [eq_iff_eq_field, encDpShiftReg]
  simp only [append_eq_field_iff, bit_eq_field_iff, zero_eq_field_iff, one_eq_field_iff, and_assoc]

theorem encMultiply_eq_iff {w : Word} {c : Cond} {sel : BitVec 4} {s : Bool} {r16 r12 rs rm : RegNum} :
    encMultiply c sel s r16 r12 rs rm = w ↔ c.bits = field w 28 4 ∧ 0b000#3 = field w 25 3 ∧ sel = field w 21 4
      ∧ s = w.getLsbD 20 ∧ r16 = field w 16 4 ∧ r12 = field w 12 4 ∧ rs = field w 8 4
      ∧ (true = w.getLsbD 7 ∧ 0b00#2 = field w 5 2 ∧ true = w.getLsbD 4) ∧ rm = field w 0 4 := by
  have hsplit : 0b1001#4 = field w 4 4 ↔ 1#1 ++ 0b00#2 ++ 1#1 = field w 4 4 := Iff.rfl
  rw [eq_iff_eq_field, encMultiply]
  simp only [append_eq_field_iff, bit_eq_field_iff, one_eq_field_iff, and_assoc, hsplit]

theorem encHalf_eq_iff {w : Word} {c : Cond} {p u imm wb l : Bool} {sh : BitVec 2} {rn rd : RegNum} {hi lo : BitVec 4} :
    encHalf c p u imm wb l sh rn rd hi lo = w ↔ c.bits = field w 28 4 ∧ 0b000#3 = field w 25 3 ∧ p = w.getLsbD 24
      ∧ u = w.getLsbD 23 ∧ imm = w.getLsbD 22 ∧ wb = w.getLsbD 21 ∧ l = w.getLsbD 20 ∧ rn = field w 16 4
      ∧ rd = field w 12 4 ∧ hi = field w 8 4 ∧ true = w.getLsbD 7 ∧ sh = field w 5 2 ∧ true = w.getLsbD 4
      ∧ lo = field w 0 4 := by
  rw [eq_iff_eq_field, encHalf]
  simp only [append_eq_field_iff, bit_eq_field_iff, one_eq_field_iff, and_assoc]

theorem encTransferImm_eq_iff {w : Word} {c : Cond} {p u b wb l : Bool} {rn rd : RegNum} {imm : BitVec 12} :
    encTransferImm c p u b wb l rn rd imm = w ↔ c.bits = field w 28 4 ∧ 0b010#3 = field w 25 3 ∧ p = w.getLsbD 24
      ∧ u = w.getLsbD 23 ∧ b = w.getLsbD 22 ∧ wb = w.getLsbD 21 ∧ l = w.getLsbD 20 ∧ rn = field w 16 4
      ∧ rd = field w 12 4 ∧ imm = field w 0 12 := by
  rw [eq_iff_eq_field, encTransferImm]
  simp only [append_eq_field_iff, bit_eq_field_iff, and_assoc]

theorem encTransferReg_eq_iff {w : Word} {c : Cond} {p u b wb l : Bool} {rn rd : RegNum} {off : ShiftImm} :
    encTransferReg c p u b wb l rn rd off = w ↔ c.bits = field w 28 4 ∧ 0b011#3 = field w 25 3 ∧ p = w.getLsbD 24
      ∧ u = w.getLsbD 23 ∧ b = w.getLsbD 22 ∧ wb = w.getLsbD 21 ∧ l = w.getLsbD 20 ∧ rn = field w 16 4
      ∧ rd = field w 12 4 ∧ off.amount = field w 7 5 ∧ off.kind.bits = field w 5 2 ∧ false = w.getLsbD 4
      ∧ off.rm = field w 0 4 := by
  rw [eq_iff_eq_field, encTransferReg]
  simp only [append_eq_field_iff, bit_eq_field_iff, zero_eq_field_iff, and_assoc]

theorem encBlock_eq_iff {w : Word} {c : Cond} {p u s wb l : Bool} {rn : RegNum} {list : BitVec 16} :
    encBlock c p u s wb l rn list = w ↔ c.bits = field w 28 4 ∧ 0b100#3 = field w 25 3 ∧ p = w.getLsbD 24
      ∧ u = w.getLsbD 23 ∧ s = w.getLsbD 22 ∧ wb = w.getLsbD 21 ∧ l = w.getLsbD 20 ∧ rn = field w 16 4
      ∧ list = field w 0 16 := by
  rw [eq_iff_eq_field, encBlock]
  simp only [append_eq_field_iff, bit_eq_field_iff, and_assoc]

theorem encCoprocessorTransfer_eq_iff {w : Word} {c : Cond} {p u n wb l : Bool} {rn : RegNum} {crd cp : BitVec 4}
    {off : BitVec 8} :
    encCoprocessorTransfer c p u n wb l rn crd cp off = w ↔ c.bits = field w 28 4 ∧ 0b110#3 = field w 25 3
      ∧ p = w.getLsbD 24 ∧ u = w.getLsbD 23 ∧ n = w.getLsbD 22 ∧ wb = w.getLsbD 21 ∧ l = w.getLsbD 20
      ∧ rn = field w 16 4 ∧ crd = field w 12 4 ∧ cp = field w 8 4 ∧ off = field w 0 8 := by
  rw [eq_iff_eq_field, encCoprocessorTransfer]
  simp only [append_eq_field_iff, bit_eq_field_iff, and_assoc]

/-- A swap has the bits of a multiply whose opcode is 1000 or 1010 (R129, R131). -/
theorem encSwap_eq_encMultiply (c : Cond) (b : Bool) (rn rd rm : RegNum) :
    encSwap c b rn rd rm = encMultiply c (0b10#2 ++ bit b ++ 0#1) false rn rd 0 rm := by
  obtain ⟨hc, h25, h21, h20, h16, h12, h8, hmid, h0⟩ := encMultiply_eq_iff.mp
    (rfl : _ = encMultiply c (0b10#2 ++ bit b ++ 0#1) false rn rd 0 rm)
  generalize encMultiply c (0b10#2 ++ bit b ++ 0#1) false rn rd 0 rm = w at *
  have hhigh : 0b00010#5 = field w 23 5 ↔ 0b000#3 ++ 0b10#2 = field w 23 5 := Iff.rfl
  have hpair : 0b00#2 = field w 20 2 ↔ 0#1 ++ 0#1 = field w 20 2 := Iff.rfl
  have hlow : 0b00001001#8 = field w 4 8 ↔ 0b0000#4 ++ (1#1 ++ 0b00#2 ++ 1#1) = field w 4 8 := Iff.rfl
  rw [eq_iff_eq_field, encSwap]
  simp only [append_eq_field_iff, bit_eq_field_iff, zero_eq_field_iff, and_assoc] at h21 ⊢
  simp only [hhigh, hpair, hlow, append_eq_field_iff, zero_eq_field_iff, one_eq_field_iff, and_assoc]
  obtain ⟨h23, h22, h21⟩ := h21
  obtain ⟨h7, h5, h4⟩ := hmid
  exact ⟨hc, h25, h23, h22, h21, h20, h16, h12, h8, h7, h5, h4, h0⟩

/-- B, BL and SWI (R136, R142): `k` is bits 27:24. -/
theorem branch_eq_iff {w : Word} {c : Cond} {k : BitVec 4} {imm : BitVec 24} :
    c.bits ++ k ++ imm = w ↔ c.bits = field w 28 4 ∧ k.extractLsb' 1 3 = field w 25 3 ∧ k.getLsbD 0 = w.getLsbD 24
      ∧ imm = field w 0 24 := by
  have hk : k.extractLsb' 1 3 ++ bit (k.getLsbD 0) = k := by revert k; decide
  have hsplit : k = field w 24 4 ↔ k.extractLsb' 1 3 ++ bit (k.getLsbD 0) = field w 24 4 := by rw [hk]
  rw [eq_iff_eq_field]
  simp only [append_eq_field_iff, and_assoc]
  rw [hsplit]
  simp only [append_eq_field_iff, bit_eq_field_iff, and_assoc]

theorem blxImm_eq_iff {w : Word} {h : Bool} {imm : BitVec 24} :
    0b1111101#7 ++ bit h ++ imm = w ↔
      0b1111#4 = field w 28 4 ∧ 0b101#3 = field w 25 3 ∧ h = w.getLsbD 24 ∧ imm = field w 0 24 := by
  have hsplit : 0b1111101#7 = field w 25 7 ↔ 0b1111#4 ++ 0b101#3 = field w 25 7 := Iff.rfl
  rw [eq_iff_eq_field]
  simp only [append_eq_field_iff, bit_eq_field_iff, and_assoc, hsplit]

/-- BX, BLX register and BKPT (R137, R144): bits 27:20 are 00010010. -/
theorem exchange_eq_iff {w : Word} {c : Cond} {x : BitVec 12} {k y : BitVec 4} :
    c.bits ++ 0b00010010#8 ++ x ++ k ++ y = w ↔
      c.bits = field w 28 4 ∧ (0b000#3 = field w 25 3 ∧ 0b10#2 = field w 23 2 ∧ 0b01#2 = field w 21 2
        ∧ false = w.getLsbD 20) ∧ x = field w 8 12 ∧ k = field w 4 4 ∧ y = field w 0 4 := by
  have hsplit : 0b00010010#8 = field w 20 8 ↔ 0b000#3 ++ 0b10#2 ++ 0b01#2 ++ 0#1 = field w 20 8 := Iff.rfl
  rw [eq_iff_eq_field]
  simp only [append_eq_field_iff, zero_eq_field_iff, and_assoc, hsplit]

theorem mrs_eq_iff {w : Word} {c : Cond} {r : Bool} {rd : RegNum} :
    c.bits ++ 0b00010#5 ++ bit r ++ 0b001111#6 ++ rd ++ 0#12 = w ↔
      c.bits = field w 28 4 ∧ 0b000#3 = field w 25 3 ∧ 0b10#2 = field w 23 2 ∧ bit r ++ 0#1 = field w 21 2
        ∧ false = w.getLsbD 20 ∧ 0b1111#4 = field w 16 4 ∧ rd = field w 12 4 ∧ 0#12 = field w 0 12 := by
  have hhigh : 0b00010#5 = field w 23 5 ↔ 0b000#3 ++ 0b10#2 = field w 23 5 := Iff.rfl
  have hmid : 0b001111#6 = field w 16 6 ↔ 0#1 ++ 0#1 ++ 0b1111#4 = field w 16 6 := Iff.rfl
  rw [eq_iff_eq_field]
  simp only [append_eq_field_iff, bit_eq_field_iff, zero_eq_field_iff, and_assoc, hhigh, hmid]

theorem msrReg_eq_iff {w : Word} {c : Cond} {r : Bool} {mask : BitVec 4} {rm : RegNum} :
    c.bits ++ 0b00010#5 ++ bit r ++ 0b10#2 ++ mask ++ 0b111100000000#12 ++ rm = w ↔
      c.bits = field w 28 4 ∧ 0b000#3 = field w 25 3 ∧ 0b10#2 = field w 23 2 ∧ bit r ++ 1#1 = field w 21 2
        ∧ false = w.getLsbD 20 ∧ mask = field w 16 4 ∧ 0b1111#4 = field w 12 4 ∧ 0b0000#4 = field w 8 4
        ∧ 0b0000#4 = field w 4 4 ∧ rm = field w 0 4 := by
  have hhigh : 0b00010#5 = field w 23 5 ↔ 0b000#3 ++ 0b10#2 = field w 23 5 := Iff.rfl
  have hmid : 0b10#2 = field w 20 2 ↔ 1#1 ++ 0#1 = field w 20 2 := Iff.rfl
  have hlow : 0b111100000000#12 = field w 4 12 ↔ 0b1111#4 ++ 0b0000#4 ++ 0b0000#4 = field w 4 12 := Iff.rfl
  rw [eq_iff_eq_field]
  simp only [append_eq_field_iff, bit_eq_field_iff, zero_eq_field_iff, one_eq_field_iff, and_assoc, hhigh, hmid, hlow]

theorem msrImm_eq_iff {w : Word} {c : Cond} {r : Bool} {mask : BitVec 4} {op : RotImm} :
    c.bits ++ 0b00110#5 ++ bit r ++ 0b10#2 ++ mask ++ 0b1111#4 ++ op.rot ++ op.imm8 = w ↔
      c.bits = field w 28 4 ∧ 0b001#3 = field w 25 3 ∧ 0b10#2 = field w 23 2 ∧ r = w.getLsbD 22 ∧ true = w.getLsbD 21
        ∧ false = w.getLsbD 20 ∧ mask = field w 16 4 ∧ 0b1111#4 = field w 12 4 ∧ op.rot = field w 8 4
        ∧ op.imm8 = field w 0 8 := by
  have hhigh : 0b00110#5 = field w 23 5 ↔ 0b001#3 ++ 0b10#2 = field w 23 5 := Iff.rfl
  have hmid : 0b10#2 = field w 20 2 ↔ 1#1 ++ 0#1 = field w 20 2 := Iff.rfl
  rw [eq_iff_eq_field]
  simp only [append_eq_field_iff, bit_eq_field_iff, zero_eq_field_iff, one_eq_field_iff, and_assoc, hhigh, hmid]

theorem undefMsr_eq_iff {w : Word} {c : Cond} {y : Bool} {lo : BitVec 20} :
    c.bits ++ 0b00110#5 ++ bit y ++ 0b00#2 ++ lo = w ↔
      c.bits = field w 28 4 ∧ 0b001#3 = field w 25 3 ∧ 0b10#2 = field w 23 2 ∧ y = w.getLsbD 22 ∧ false = w.getLsbD 21
        ∧ false = w.getLsbD 20 ∧ lo = field w 0 20 := by
  have hhigh : 0b00110#5 = field w 23 5 ↔ 0b001#3 ++ 0b10#2 = field w 23 5 := Iff.rfl
  have hmid : 0b00#2 = field w 20 2 ↔ 0#1 ++ 0#1 = field w 20 2 := Iff.rfl
  rw [eq_iff_eq_field]
  simp only [append_eq_field_iff, bit_eq_field_iff, zero_eq_field_iff, and_assoc, hhigh, hmid]

theorem undefMem_eq_iff {w : Word} {c : Cond} {hi : BitVec 20} {lo : BitVec 4} :
    c.bits ++ 0b011#3 ++ hi ++ 1#1 ++ lo = w ↔
      c.bits = field w 28 4 ∧ 0b011#3 = field w 25 3 ∧ hi = field w 5 20 ∧ true = w.getLsbD 4 ∧ lo = field w 0 4 := by
  rw [eq_iff_eq_field]
  simp only [append_eq_field_iff, one_eq_field_iff, and_assoc]

theorem cdp_eq_iff {w : Word} {c : Cond} {op1 crn crd cp crm : BitVec 4} {op2 : BitVec 3} :
    c.bits ++ 0b1110#4 ++ op1 ++ crn ++ crd ++ cp ++ op2 ++ 0#1 ++ crm = w ↔
      c.bits = field w 28 4 ∧ 0b111#3 = field w 25 3 ∧ false = w.getLsbD 24 ∧ op1 = field w 20 4 ∧ crn = field w 16 4
        ∧ crd = field w 12 4 ∧ cp = field w 8 4 ∧ op2 = field w 5 3 ∧ false = w.getLsbD 4 ∧ crm = field w 0 4 := by
  have hsplit : 0b1110#4 = field w 24 4 ↔ 0b111#3 ++ 0#1 = field w 24 4 := Iff.rfl
  rw [eq_iff_eq_field]
  simp only [append_eq_field_iff, zero_eq_field_iff, and_assoc, hsplit]

/-- MCR and MRC (R140): `l` is bit 20. -/
theorem coprocessorRegister_eq_iff {w : Word} {c : Cond} {l : BitVec 1} {crn rd cp crm : BitVec 4} {op1 op2 : BitVec 3} :
    c.bits ++ 0b1110#4 ++ op1 ++ l ++ crn ++ rd ++ cp ++ op2 ++ 1#1 ++ crm = w ↔
      c.bits = field w 28 4 ∧ 0b111#3 = field w 25 3 ∧ false = w.getLsbD 24 ∧ op1 = field w 21 3
        ∧ l.getLsbD 0 = w.getLsbD 20 ∧ crn = field w 16 4 ∧ rd = field w 12 4 ∧ cp = field w 8 4 ∧ op2 = field w 5 3
        ∧ true = w.getLsbD 4 ∧ crm = field w 0 4 := by
  have hl : bit (l.getLsbD 0) = l := by revert l; decide
  have hsplit : 0b1110#4 = field w 24 4 ↔ 0b111#3 ++ 0#1 = field w 24 4 := Iff.rfl
  rw [← hl, eq_iff_eq_field, bit_getLsbD]
  simp only [append_eq_field_iff, bit_eq_field_iff, zero_eq_field_iff, one_eq_field_iff, and_assoc, hsplit]

end Sys2Proof
end

section
/-! PROOFS. Decoding what the encoder writes (30_encoding.md R123): the round trips of every family of instructions. -/
namespace Sys2Proof

/-! ### What the decoder reads -/

theorem rotImmOf_eq {w : Word} {op : RotImm} (hrot : op.rot = field w 8 4) (himm : op.imm8 = field w 0 8) :
    rotImmOf w = op := by
  rw [rotImmOf, ← hrot, ← himm]

theorem shiftImmOf_eq {w : Word} {op : ShiftImm} (hamount : op.amount = field w 7 5) (hkind : op.kind.bits = field w 5 2)
    (hrm : op.rm = field w 0 4) : shiftImmOf w = op := by
  rw [shiftImmOf, ← hamount, ← hkind, ← hrm, ShiftKind.ofBits_bits]

theorem shiftRegOf_eq {w : Word} {op : ShiftReg} (hrs : op.rs = field w 8 4) (hkind : op.kind.bits = field w 5 2)
    (hrm : op.rm = field w 0 4) : shiftRegOf w = op := by
  rw [shiftRegOf, ← hrs, ← hkind, ← hrm, ShiftKind.ofBits_bits]

/-! ### The branches of the decision tree (R123) -/

section
variable {w : Word} {c : Cond} (hc : c.bits = field w 28 4)
include hc

theorem decodeWord_of_cond : decodeWord w = decodeConditional c w := by
  rw [decodeWord, ← hc, Cond.ofBits_bits]

theorem decodeWord_eq_decode000 (h25 : 0b000#3 = field w 25 3) : decodeWord w = decode000 c w := by
  rw [decodeWord_of_cond hc, decodeConditional, ← h25]; rfl

theorem decodeWord_eq_decode001 (h25 : 0b001#3 = field w 25 3) : decodeWord w = decode001 c w := by
  rw [decodeWord_of_cond hc, decodeConditional, ← h25]; rfl

theorem decodeWord_eq_decodeTransferImm (h25 : 0b010#3 = field w 25 3) : decodeWord w = decodeTransferImm c w := by
  rw [decodeWord_of_cond hc, decodeConditional, ← h25]; rfl

theorem decodeWord_eq_decodeTransferReg (h25 : 0b011#3 = field w 25 3) (h4 : false = w.getLsbD 4) :
    decodeWord w = decodeTransferReg c w := by
  rw [decodeWord_of_cond hc, decodeConditional, ← h25, ← h4]; rfl

theorem decodeWord_eq_decodeBlock (h25 : 0b100#3 = field w 25 3) : decodeWord w = decodeBlock c w := by
  rw [decodeWord_of_cond hc, decodeConditional, ← h25]; rfl

theorem decodeWord_eq_decodeCoprocessorTransfer (h25 : 0b110#3 = field w 25 3) :
    decodeWord w = decodeCoprocessorTransfer c w := by
  rw [decodeWord_of_cond hc, decodeConditional, ← h25]; rfl

theorem decodeWord_eq_decodeCoprocessorSwi (h25 : 0b111#3 = field w 25 3) :
    decodeWord w = decodeCoprocessorSwi c w := by
  rw [decodeWord_of_cond hc, decodeConditional, ← h25]; rfl

theorem decodeWord_eq_decodeMultiplySwap (h25 : 0b000#3 = field w 25 3) (h7 : true = w.getLsbD 7)
    (h5 : 0b00#2 = field w 5 2) (h4 : true = w.getLsbD 4) : decodeWord w = decodeMultiplySwap c w := by
  rw [decodeWord_eq_decode000 hc h25, decode000, ← h7, ← h5, ← h4]; rfl

theorem decodeWord_eq_decodeHalf (h25 : 0b000#3 = field w 25 3) (h7 : true = w.getLsbD 7)
    (h5 : (field w 5 2 == 0) = false) (h4 : true = w.getLsbD 4) : decodeWord w = decodeHalf c w := by
  rw [decodeWord_eq_decode000 hc h25, decode000, ← h7, h5, ← h4]; rfl

theorem decodeWord_eq_decodeStatusBranch (h25 : 0b000#3 = field w 25 3) (h23 : 0b10#2 = field w 23 2)
    (h20 : false = w.getLsbD 20) (h7 : false = w.getLsbD 7) : decodeWord w = decodeStatusBranch c w := by
  rw [decodeWord_eq_decode000 hc h25, decode000, ← h23, ← h20, ← h7]; rfl
end

/-- Where bits 24:23 are 10, data processing needs the S bit (R125). -/
theorem testing_of_opcode {w : Word} {o : BitVec 4} {s : Bool} (ho : o = field w 21 4) (hs : s = w.getLsbD 20)
    (htest : o.extractLsb' 2 2 = 2 → s = true) : (field w 23 2 == 2 && !w.getLsbD 20) = false := by
  have h23 : field w 23 2 = o.extractLsb' 2 2 := field_of_field ho 2 2 (by decide)
  rw [h23, ← hs]
  by_cases h : o.extractLsb' 2 2 = 2
  · rw [htest h, Bool.not_true, Bool.and_false]
  · rw [beq_eq_false_iff_ne.mpr h, Bool.false_and]

/-! ### Decoding the word of each format -/

theorem decodeWord_encDpImm {w : Word} {c : Cond} {o : BitVec 4} {s : Bool} {rn rd : RegNum} {op : RotImm} {i : Instr}
    (h : encDpImm c o s rn rd op = w) (htest : o.extractLsb' 2 2 = 2 → s = true)
    (hdec : o = field w 21 4 → s = w.getLsbD 20 → rn = field w 16 4 → rd = field w 12 4 → decodeDpImm c w op = .ok i) :
    decodeWord w = .ok i := by
  obtain ⟨hc, h25, ho, hs, hn, hd, hrot, himm⟩ := encDpImm_eq_iff.mp h
  rw [decodeWord_eq_decode001 hc h25, decode001, testing_of_opcode ho hs htest, rotImmOf_eq hrot himm]
  exact hdec ho hs hn hd

theorem decodeWord_encDpShiftImm {w : Word} {c : Cond} {o : BitVec 4} {s : Bool} {rn rd : RegNum} {op : ShiftImm} {i : Instr}
    (h : encDpShiftImm c o s rn rd op = w) (htest : o.extractLsb' 2 2 = 2 → s = true)
    (hdec : o = field w 21 4 → s = w.getLsbD 20 → rn = field w 16 4 → rd = field w 12 4 → decodeDpShiftImm c w op = .ok i) :
    decodeWord w = .ok i := by
  obtain ⟨hc, h25, ho, hs, hn, hd, hamount, hkind, h4, hrm⟩ := encDpShiftImm_eq_iff.mp h
  rw [decodeWord_eq_decode000 hc h25, decode000, ← h4, Bool.and_false, testing_of_opcode ho hs htest,
    shiftImmOf_eq hamount hkind hrm]
  exact hdec ho hs hn hd

theorem decodeWord_encDpShiftReg {w : Word} {c : Cond} {o : BitVec 4} {s : Bool} {rn rd : RegNum} {op : ShiftReg} {i : Instr}
    (h : encDpShiftReg c o s rn rd op = w) (htest : o.extractLsb' 2 2 = 2 → s = true)
    (hdec : o = field w 21 4 → s = w.getLsbD 20 → rn = field w 16 4 → rd = field w 12 4 → decodeDpShiftReg c w op = .ok i) :
    decodeWord w = .ok i := by
  obtain ⟨hc, h25, ho, hs, hn, hd, hrs, h7, hkind, h4, hrm⟩ := encDpShiftReg_eq_iff.mp h
  rw [decodeWord_eq_decode000 hc h25, decode000, ← h7, ← h4, Bool.false_and, testing_of_opcode ho hs htest,
    shiftRegOf_eq hrs hkind hrm]
  exact hdec ho hs hn hd

theorem coprocessorForm_of_wellFormed {p u wb : Bool} (h : (checkCoprocessorTransfer p u wb).isNone = true) :
    (!p && !u && !wb) = false := by
  revert p u wb; decide

theorem decodeWord_encHalf {w : Word} {c : Cond} {p u imm wb l : Bool} {sh : BitVec 2} {rn rd : RegNum} {hi lo : BitVec 4}
    {i : Instr} (h : encHalf c p u imm wb l sh rn rd hi lo = w) (hne : (sh == 0) = false)
    (hdec : l = w.getLsbD 20 → sh = field w 5 2 → p = w.getLsbD 24 → imm = w.getLsbD 22 → u = w.getLsbD 23 →
      wb = w.getLsbD 21 → rn = field w 16 4 → rd = field w 12 4 → hi = field w 8 4 → lo = field w 0 4 →
      decodeHalf c w = .ok i) : decodeWord w = .ok i := by
  obtain ⟨hc, h25, h24, h23, h22, h21, h20, h16, h12, h8, h7, h5, h4, h0⟩ := encHalf_eq_iff.mp h
  rw [decodeWord_eq_decodeHalf hc h25 h7 (h5 ▸ hne) h4]
  exact hdec h20 h5 h24 h22 h23 h21 h16 h12 h8 h0

/-- The decoder reads back every word the encoder writes; well-formedness leaves out only LDC and STC with P = U = W = 0
(R138). -/
theorem decodeWord_of_encodeWord {i : Instr} {w : Word} (hi : i.wellFormed = true) (h : encodeWord i = some w) :
    decodeWord w = .ok i := by
  cases i
  case ldrPseudo | adr | adrl | nop => cases h
  case andImm | eorImm | subImm | rsbImm | addImm | adcImm | sbcImm | rscImm | tstImm | teqImm | cmpImm | cmnImm
    | orrImm | movImm | bicImm | mvnImm =>
    exact decodeWord_encDpImm (Option.some.inj h) (by simp) fun ho hs hn hd => by
      rw [decodeDpImm, ← ho, ← hs, ← hn, ← hd]; rfl
  case andShiftImm | eorShiftImm | subShiftImm | rsbShiftImm | addShiftImm | adcShiftImm | sbcShiftImm | rscShiftImm
    | tstShiftImm | teqShiftImm | cmpShiftImm | cmnShiftImm | orrShiftImm | movShiftImm | bicShiftImm | mvnShiftImm =>
    exact decodeWord_encDpShiftImm (Option.some.inj h) (by simp) fun ho hs hn hd => by
      rw [decodeDpShiftImm, ← ho, ← hs, ← hn, ← hd]; rfl
  case andShiftReg | eorShiftReg | subShiftReg | rsbShiftReg | addShiftReg | adcShiftReg | sbcShiftReg | rscShiftReg
    | tstShiftReg | teqShiftReg | cmpShiftReg | cmnShiftReg | orrShiftReg | movShiftReg | bicShiftReg | mvnShiftReg =>
    exact decodeWord_encDpShiftReg (Option.some.inj h) (by simp) fun ho hs hn hd => by
      rw [decodeDpShiftReg, ← ho, ← hs, ← hn, ← hd]; rfl
  case mul | mla | umull | umlal | smull | smlal =>
    obtain ⟨hc, h25, h21, h20, h16, h12, h8, ⟨h7, h5, h4⟩, h0⟩ := encMultiply_eq_iff.mp (Option.some.inj h)
    rw [decodeWord_eq_decodeMultiplySwap hc h25 h7 h5 h4, decodeMultiplySwap, ← h21, ← h20, ← h16, ← h12, ← h8, ← h0]
    rfl
  case swp | swpb =>
    obtain ⟨hc, h25, h21, h20, h16, h12, h8, ⟨h7, h5, h4⟩, h0⟩ :=
      encMultiply_eq_iff.mp ((encSwap_eq_encMultiply ..).symm.trans (Option.some.inj h))
    rw [decodeWord_eq_decodeMultiplySwap hc h25 h7 h5 h4, decodeMultiplySwap, ← h21, ← h20, ← h16, ← h12, ← h8, ← h0]
    rfl
  case ldrhImmPre imm | strhImmPre imm | ldrsbImmPre imm | ldrshImmPre imm
    | ldrhImmPost imm | strhImmPost imm | ldrsbImmPost imm | ldrshImmPost imm =>
    refine decodeWord_encHalf (Option.some.inj h) rfl fun hl hsh hp himmBit hu hwb hn hd hhi hlo => ?_
    have himm : field w 8 4 ++ field w 0 4 = imm := by
      rw [← hhi, ← hlo]; exact BitVec.extractLsb'_append_extractLsb' (w := 4) (len := 4)
    simp only [decodeHalf, decodeHalfForms, ← hl, ← hsh, ← hp, ← himmBit, ← hu, ← hwb, ← hn, ← hd, himm]
    rfl
  case ldrhRegPre | strhRegPre | ldrsbRegPre | ldrshRegPre | ldrhRegPost | strhRegPost | ldrsbRegPost | ldrshRegPost =>
    refine decodeWord_encHalf (Option.some.inj h) rfl fun hl hsh hp himmBit hu hwb hn hd hhi hlo => ?_
    simp only [decodeHalf, decodeHalfForms, ← hl, ← hsh, ← hp, ← himmBit, ← hu, ← hwb, ← hn, ← hd, ← hhi, ← hlo]
    rfl
  case ldrImmPre | strImmPre | ldrbImmPre | strbImmPre | ldrImmPost | strImmPost | ldrbImmPost | strbImmPost =>
    obtain ⟨hc, h25, h24, h23, h22, h21, h20, h16, h12, h0⟩ := encTransferImm_eq_iff.mp (Option.some.inj h)
    rw [decodeWord_eq_decodeTransferImm hc h25, decodeTransferImm, ← h24, ← h23, ← h22, ← h21, ← h20, ← h16, ← h12, ← h0]
      <;> rfl
  case ldrRegPre | strRegPre | ldrbRegPre | strbRegPre | ldrRegPost | strRegPost | ldrbRegPost | strbRegPost =>
    obtain ⟨hc, h25, h24, h23, h22, h21, h20, h16, h12, hamount, hkind, h4, hrm⟩ :=
      encTransferReg_eq_iff.mp (Option.some.inj h)
    rw [decodeWord_eq_decodeTransferReg hc h25 h4, decodeTransferReg, shiftImmOf_eq hamount hkind hrm, ← h24, ← h23, ← h22,
      ← h21, ← h20, ← h16, ← h12]
      <;> rfl
  case ldm | stm =>
    obtain ⟨hc, h25, h24, h23, h22, h21, h20, h16, h0⟩ := encBlock_eq_iff.mp (Option.some.inj h)
    rw [decodeWord_eq_decodeBlock hc h25, decodeBlock, ← h24, ← h23, ← h22, ← h21, ← h20, ← h16, ← h0]
    rfl
  case b | bl =>
    obtain ⟨hc, h25, h24, h0⟩ := branch_eq_iff.mp (Option.some.inj h)
    rw [decodeWord_of_cond hc, decodeConditional, ← h25, ← h24, ← h0]
    rfl
  case bx | blxReg =>
    obtain ⟨hc, ⟨h25, h23, h21, h20⟩, h8, h4, h0⟩ := exchange_eq_iff.mp (Option.some.inj h)
    rw [decodeWord_eq_decodeStatusBranch hc h25 h23 h20 (getLsbD_of_field h4 3 (by decide)).symm, decodeStatusBranch, ← h4,
      ← h21, ← h8, ← h0]
    rfl
  case bkpt imm =>
    obtain ⟨hc, ⟨h25, h23, h21, h20⟩, h8, h4, h0⟩ := exchange_eq_iff (c := .al).mp (Option.some.inj h)
    have himm : field w 8 12 ++ field w 0 4 = imm := by
      rw [← h8, ← h0]; exact BitVec.extractLsb'_append_extractLsb' (w := 12) (len := 4)
    rw [decodeWord_eq_decodeStatusBranch hc h25 h23 h20 (getLsbD_of_field h4 3 (by decide)).symm, decodeStatusBranch, ← h4,
      ← h21, himm]
    rfl
  case blxImm =>
    obtain ⟨hnever, h25, h24, h0⟩ := blxImm_eq_iff.mp (Option.some.inj h)
    rw [decodeWord, ← hnever, ← h25, ← h24, ← h0]
    rfl
  case mrs c r rd =>
    obtain ⟨hc, h25, h23, h21, h20, h16, h12, h0⟩ := mrs_eq_iff.mp (Option.some.inj h)
    have h4 : field w 4 4 = 0 := field_of_field h0 4 4 (by decide)
    rw [decodeWord_eq_decodeStatusBranch hc h25 h23 h20 (getLsbD_of_field h0 7 (by decide)).symm, decodeStatusBranch, h4,
      ← h21, ← h16, ← h12, ← h0]
    cases r <;> rfl
  case msrReg c r mask rm =>
    obtain ⟨hc, h25, h23, h21, h20, h16, h12, h8, h4, h0⟩ := msrReg_eq_iff.mp (Option.some.inj h)
    rw [decodeWord_eq_decodeStatusBranch hc h25 h23 h20 (getLsbD_of_field h4 3 (by decide)).symm, decodeStatusBranch, ← h4,
      ← h21, ← h16, ← h12, ← h8, ← h0]
    cases r <;> rfl
  case msrImm =>
    obtain ⟨hc, h25, h23, h22, h21, h20, h16, h12, hrot, himm⟩ := msrImm_eq_iff.mp (Option.some.inj h)
    rw [decodeWord_eq_decode001 hc h25, decode001, rotImmOf_eq hrot himm, ← h23, ← h22, ← h21, ← h20, ← h16, ← h12]
    rfl
  case undefMsr =>
    obtain ⟨hc, h25, h23, h22, h21, h20, h0⟩ := undefMsr_eq_iff.mp (Option.some.inj h)
    rw [decodeWord_eq_decode001 hc h25, decode001, ← h23, ← h22, ← h21, ← h20, ← h0]
    rfl
  case undefMem =>
    obtain ⟨hc, h25, h5, h4, h0⟩ := undefMem_eq_iff.mp (Option.some.inj h)
    rw [decodeWord_of_cond hc, decodeConditional, ← h25, ← h5, ← h4, ← h0]
    rfl
  case ldc | stc =>
    obtain ⟨hc, h25, h24, h23, h22, h21, h20, h16, h12, h8, h0⟩ := encCoprocessorTransfer_eq_iff.mp (Option.some.inj h)
    rw [decodeWord_eq_decodeCoprocessorTransfer hc h25, decodeCoprocessorTransfer, ← h24, ← h23, ← h22, ← h21, ← h20, ← h16,
      ← h12, ← h8, ← h0, coprocessorForm_of_wellFormed hi]
    rfl
  case cdp =>
    obtain ⟨hc, h25, h24, h20, h16, h12, h8, h5, h4, h0⟩ := cdp_eq_iff.mp (Option.some.inj h)
    rw [decodeWord_eq_decodeCoprocessorSwi hc h25, decodeCoprocessorSwi, ← h24, ← h4, ← h20, ← h16, ← h12, ← h8, ← h5, ← h0]
    rfl
  case mcr | mrc =>
    obtain ⟨hc, h25, h24, h21, h20, h16, h12, h8, h5, h4, h0⟩ := coprocessorRegister_eq_iff.mp (Option.some.inj h)
    rw [decodeWord_eq_decodeCoprocessorSwi hc h25, decodeCoprocessorSwi, ← h24, ← h4, ← h21, ← h20, ← h16, ← h12, ← h8, ← h5,
      ← h0]
    rfl
  case swi =>
    obtain ⟨hc, h25, h24, h0⟩ := branch_eq_iff.mp (Option.some.inj h)
    rw [decodeWord_eq_decodeCoprocessorSwi hc h25, decodeCoprocessorSwi, ← h24, ← h0]
    rfl

end Sys2Proof

namespace Sys2Proof.Machine

/-- Every instruction that has a word round trips, whatever bytes follow. -/
theorem roundTrips_of_encodeWord {i : Instr} {w : Word} (h : encodeWord i = some w) : RoundTrips i := by
  intro hi
  refine ⟨w, h, fun rest => ?_⟩
  rw [decodeBytes_wordBytes, decodeWord_of_encodeWord hi h]

/-- Settles O1: each form has a word, and the decoder reads back the word of every well-formed instruction. -/
theorem roundTripDataProcessing : Obligations.RoundTripDataProcessing := by
  intro c s rn rd imm si sr
  and_intros <;> exact roundTrips_of_encodeWord rfl

/-- Settles O2: from `decodeWord_of_encodeWord`, as O1. -/
theorem roundTripMultiplyStatusBranch : Obligations.RoundTripMultiplyStatusBranch := by
  intro c s rd rn rs rm mask imm off
  and_intros <;> exact roundTrips_of_encodeWord rfl

/-- Settles O3: from `decodeWord_of_encodeWord`, as O1. -/
theorem roundTripTransfers : Obligations.RoundTripTransfers := by
  intro c p u s w rn rd rm i8 i12 off list
  and_intros <;> exact roundTrips_of_encodeWord rfl

/-- Settles O4: from `decodeWord_of_encodeWord`, as O1; here well-formedness is needed, for LDC and STC. -/
theorem roundTripCoprocessorAndExceptions : Obligations.RoundTripCoprocessorAndExceptions := by
  intro c p u n w rn rd op1 crn crd cp crm lo k1 op2 off imm half hi
  and_intros <;> exact roundTrips_of_encodeWord rfl

end Sys2Proof.Machine
end

section
/-! PROOFS. Encoding what the decoder reads (30_encoding.md R123, R149): a word that decodes is the word of its instruction. -/
namespace Sys2Proof

/-- Whatever instruction `r` gives is written as `w`. -/
def WrittenAs (w : Word) (r : Except DecodeError Instr) : Prop := ∀ i, r = .ok i → encodeWord i = some w

theorem writtenAs_ok {w : Word} {i : Instr} (h : encodeWord i = some w) : WrittenAs w (.ok i) := by
  rintro _ ⟨⟩
  exact h

theorem writtenAs_error {w : Word} {e : DecodeError} : WrittenAs w (.error e) := by
  rintro _ ⟨⟩

theorem writtenAs_shouldBe {w : Word} {c : Cond} {holds : Bool} {i : Instr} (h : holds = true → encodeWord i = some w) :
    WrittenAs w (shouldBe c holds i) := by
  cases holds with
  | true => exact writtenAs_ok (h rfl)
  | false => exact writtenAs_error

/-- `enc` writes `w` from the opcode, the S bit, Rn and Rd of `w` (R124). -/
def WritesDataWord (w : Word) (enc : BitVec 4 → Bool → RegNum → RegNum → Word) : Prop :=
  ∀ ⦃o s rn rd⦄, field w 21 4 = o → s = w.getLsbD 20 → rn = field w 16 4 → rd = field w 12 4 → enc o s rn rd = w

/-- The three operand forms of data processing, whose decoders read the same opcode table. -/
theorem writtenAs_dataProcessing {w : Word} {c : Cond} (htest : field w 23 2 = 2 → w.getLsbD 20 = true) :
    (WritesDataWord w (encDpImm c · · · · (rotImmOf w)) → WrittenAs w (decodeDpImm c w (rotImmOf w)))
      ∧ (WritesDataWord w (encDpShiftImm c · · · · (shiftImmOf w)) → WrittenAs w (decodeDpShiftImm c w (shiftImmOf w)))
      ∧ (WritesDataWord w (encDpShiftReg c · · · · (shiftRegOf w)) → WrittenAs w (decodeDpShiftReg c w (shiftRegOf w))) := by
  have hs {o : BitVec 4} (ho : field w 21 4 = o) (h : o.extractLsb' 2 2 = 2) : true = w.getLsbD 20 :=
    (htest ((field_of_field ho.symm 2 2 (by decide)).trans h)).symm
  refine ⟨fun hword => ?imm, fun hword => ?shiftImm, fun hword => ?shiftReg⟩
  case imm | shiftImm | shiftReg =>
    simp only [decodeDpImm, decodeDpShiftImm, decodeDpShiftReg]
    split
    case h_1 ho | h_2 ho | h_3 ho | h_4 ho | h_5 ho | h_6 ho | h_7 ho | h_8 ho | h_13 ho | h_15 ho =>
      exact writtenAs_ok (congrArg some (hword ho rfl rfl rfl))
    case h_9 ho | h_10 ho | h_11 ho | h_12 ho =>
      exact writtenAs_shouldBe fun hz => congrArg some (hword ho (hs ho rfl) rfl (eq_of_beq hz).symm)
    case h_14 ho =>
      exact writtenAs_shouldBe fun hz => congrArg some (hword ho rfl (eq_of_beq hz).symm rfl)
    case h_16 =>
      have ho : field w 21 4 = 15 := by simp only [imp_false] at *; bv_omega
      exact writtenAs_shouldBe fun hz => congrArg some (hword ho rfl (eq_of_beq hz).symm rfl)

/-- `enc` writes `w` from the P, U, B, W and L bits, Rn and Rd of `w` (R134). -/
def WritesTransferWord (w : Word) (enc : Bool → Bool → Bool → Bool → Bool → RegNum → RegNum → Word) : Prop :=
  ∀ ⦃p b wb l⦄, w.getLsbD 24 = p → w.getLsbD 22 = b → w.getLsbD 20 = l → wb = w.getLsbD 21 →
    enc p (w.getLsbD 23) b wb l (field w 16 4) (field w 12 4) = w

/-- The two offset forms of a word or byte transfer, whose decoders read the same bits. -/
theorem writtenAs_transfers {w : Word} {c : Cond} :
    (WritesTransferWord w (encTransferImm c · · · · · · · (field w 0 12)) → WrittenAs w (decodeTransferImm c w))
      ∧ (WritesTransferWord w (encTransferReg c · · · · · · · (shiftImmOf w)) → WrittenAs w (decodeTransferReg c w)) := by
  refine ⟨fun hword => ?imm, fun hword => ?reg⟩
  case imm | reg =>
    simp only [decodeTransferImm, decodeTransferReg]
    split
    case h_1 hp hb hl | h_2 hp hb hl | h_3 hp hb hl | h_4 hp hb hl =>
      exact writtenAs_ok (congrArg some (hword hp hb hl rfl))
    case h_5 hp =>
      split
      case isTrue => exact writtenAs_error
      case isFalse hwb =>
        have hwb := (Bool.eq_false_iff.mpr hwb).symm
        split
        case h_1 hb hl | h_2 hb hl | h_3 hb hl | h_4 hb hl => exact writtenAs_ok (congrArg some (hword hp hb hl hwb))

section
variable {w : Word} {c : Cond} (hc : c.bits = field w 28 4)
include hc

theorem writtenAs_decodeMultiplySwap (h25 : 0b000#3 = field w 25 3) (h7 : true = w.getLsbD 7)
    (h5 : 0b00#2 = field w 5 2) (h4 : true = w.getLsbD 4) : WrittenAs w (decodeMultiplySwap c w) := by
  have hword {sel : BitVec 4} {s : Bool} {r12 rs : RegNum} (h21 : field w 21 4 = sel) (h20 : s = w.getLsbD 20)
      (h12 : r12 = field w 12 4) (h8 : rs = field w 8 4) :
      encMultiply c sel s (field w 16 4) r12 rs (field w 0 4) = w :=
    encMultiply_eq_iff.mpr ⟨hc, h25, h21.symm, h20, rfl, h12, h8, ⟨h7, h5, h4⟩, rfl⟩
  have hswap {b : Bool} (h21 : field w 21 4 = 0b10#2 ++ bit b ++ 0#1)
      (h : (!w.getLsbD 20 && field w 8 4 == 0) = true) :
      encSwap c b (field w 16 4) (field w 12 4) (field w 0 4) = w := by
    obtain ⟨h20, h8⟩ := Bool.and_eq_true_iff.mp h
    rw [encSwap_eq_encMultiply]
    exact hword h21 (Bool.not_eq_true' _ |>.mp h20).symm rfl (eq_of_beq h8).symm
  unfold decodeMultiplySwap
  split
  case h_1 h21 => exact writtenAs_shouldBe fun hz => congrArg some (hword h21 rfl (eq_of_beq hz).symm rfl)
  case h_2 h21 | h_3 h21 | h_4 h21 | h_5 h21 | h_6 h21 => exact writtenAs_ok (congrArg some (hword h21 rfl rfl rfl))
  case h_7 h21 | h_8 h21 =>
    dsimp only
    split
    case isTrue h => exact writtenAs_ok (congrArg some (hswap h21 h))
    case isFalse => exact writtenAs_error
  case h_9 => exact writtenAs_error

/-- The four address forms of one halfword or signed transfer (R133). -/
theorem writtenAs_decodeHalfForms {l : Bool} {sh : BitVec 2} {immPre : Bool → Bool → RegNum → RegNum → BitVec 8 → Instr}
    {immPost : Bool → RegNum → RegNum → BitVec 8 → Instr} {regPre : Bool → Bool → RegNum → RegNum → RegNum → Instr}
    {regPost : Bool → RegNum → RegNum → RegNum → Instr}
    (h25 : 0b000#3 = field w 25 3) (h20 : w.getLsbD 20 = l) (h7 : true = w.getLsbD 7) (h5 : field w 5 2 = sh)
    (h4 : true = w.getLsbD 4)
    (himmPre : ∀ u wb rn rd imm, encodeWord (immPre u wb rn rd imm)
      = some (encHalf c true u true wb l sh rn rd (imm.extractLsb' 4 4) (imm.extractLsb' 0 4)))
    (himmPost : ∀ u rn rd imm, encodeWord (immPost u rn rd imm)
      = some (encHalf c false u true false l sh rn rd (imm.extractLsb' 4 4) (imm.extractLsb' 0 4)))
    (hregPre : ∀ u wb rn rd rm, encodeWord (regPre u wb rn rd rm) = some (encHalf c true u false wb l sh rn rd 0 rm))
    (hregPost : ∀ u rn rd rm, encodeWord (regPost u rn rd rm) = some (encHalf c false u false false l sh rn rd 0 rm)) :
    WrittenAs w (decodeHalfForms c w immPre immPost regPre regPost) := by
  have hword {p i wb : Bool} {hi lo : BitVec 4} (hp : w.getLsbD 24 = p) (h22 : w.getLsbD 22 = i) (hwb : wb = w.getLsbD 21)
      (h8 : hi = field w 8 4) (h0 : lo = field w 0 4) :
      some (encHalf c p (w.getLsbD 23) i wb l sh (field w 16 4) (field w 12 4) hi lo) = some w :=
    congrArg some (encHalf_eq_iff.mpr
      ⟨hc, h25, hp.symm, rfl, h22.symm, hwb, h20.symm, rfl, rfl, h8, h7, h5.symm, h4, h0⟩)
  have hhi : (field w 8 4 ++ field w 0 4).extractLsb' 4 4 = field w 8 4 := BitVec.extractLsb'_append_eq_left
  have hlo : (field w 8 4 ++ field w 0 4).extractLsb' 0 4 = field w 0 4 := BitVec.extractLsb'_append_eq_right
  unfold decodeHalfForms
  dsimp only
  split
  case h_1 hp hi => exact writtenAs_ok ((himmPre ..).trans (hword hp hi rfl hhi hlo))
  case h_2 hp hi =>
    split
    case isTrue => exact writtenAs_error
    case isFalse hwb => exact writtenAs_ok ((himmPost ..).trans (hword hp hi (Bool.eq_false_iff.mpr hwb).symm hhi hlo))
  case h_3 hp hi =>
    exact writtenAs_shouldBe fun hz => (hregPre ..).trans (hword hp hi rfl (eq_of_beq hz).symm rfl)
  case h_4 hp hi =>
    split
    case isTrue => exact writtenAs_error
    case isFalse hwb =>
      exact writtenAs_shouldBe fun hz =>
        (hregPost ..).trans (hword hp hi (Bool.eq_false_iff.mpr hwb).symm (eq_of_beq hz).symm rfl)

theorem writtenAs_decodeHalf (h25 : 0b000#3 = field w 25 3) (h7 : true = w.getLsbD 7) (h5 : field w 5 2 ≠ 0)
    (h4 : true = w.getLsbD 4) : WrittenAs w (decodeHalf c w) := by
  unfold decodeHalf
  split
  case h_1 h20 hsh | h_2 h20 hsh | h_4 h20 hsh =>
    apply writtenAs_decodeHalfForms hc h25 h20 h7 hsh h4 <;> intros <;> rfl
  case h_3 h20 h1 h2 =>
    have hsh : field w 5 2 = 0b11 := by simp only [imp_false] at h1 h2; bv_omega
    apply writtenAs_decodeHalfForms hc h25 h20 h7 hsh h4 <;> intros <;> rfl
  case h_5 => exact writtenAs_error

theorem writtenAs_decodeBlock (h25 : 0b100#3 = field w 25 3) : WrittenAs w (decodeBlock c w) := by
  have hword {l : Bool} (hl : l = w.getLsbD 20) :
      some (encBlock c (w.getLsbD 24) (w.getLsbD 23) (w.getLsbD 22) (w.getLsbD 21) l (field w 16 4) (field w 0 16))
        = some w :=
    congrArg some (encBlock_eq_iff.mpr ⟨hc, h25, rfl, rfl, rfl, rfl, hl, rfl, rfl⟩)
  unfold decodeBlock
  dsimp only
  split
  case isTrue hl => exact writtenAs_ok (hword hl.symm)
  case isFalse hl => exact writtenAs_ok (hword (Bool.eq_false_iff.mpr hl).symm)

theorem writtenAs_decodeCoprocessorTransfer (h25 : 0b110#3 = field w 25 3) :
    WrittenAs w (decodeCoprocessorTransfer c w) := by
  have hword {l : Bool} (hl : l = w.getLsbD 20) :
      some (encCoprocessorTransfer c (w.getLsbD 24) (w.getLsbD 23) (w.getLsbD 22) (w.getLsbD 21) l (field w 16 4)
        (field w 12 4) (field w 8 4) (field w 0 8)) = some w :=
    congrArg some (encCoprocessorTransfer_eq_iff.mpr ⟨hc, h25, rfl, rfl, rfl, rfl, hl, rfl, rfl, rfl, rfl⟩)
  unfold decodeCoprocessorTransfer
  dsimp only
  split
  case isTrue => exact writtenAs_error
  case isFalse =>
    split
    case isTrue hl => exact writtenAs_ok (hword hl.symm)
    case isFalse hl => exact writtenAs_ok (hword (Bool.eq_false_iff.mpr hl).symm)

theorem writtenAs_decodeCoprocessorSwi (h25 : 0b111#3 = field w 25 3) : WrittenAs w (decodeCoprocessorSwi c w) := by
  unfold decodeCoprocessorSwi
  dsimp only
  split
  case isTrue h24 => exact writtenAs_ok (congrArg some (branch_eq_iff.mpr ⟨hc, h25, h24.symm, rfl⟩))
  case isFalse h24 =>
    have h24 := (Bool.eq_false_iff.mpr h24).symm
    split
    case isTrue h4 =>
      have h4 := (Bool.not_eq_true' _ |>.mp h4).symm
      exact writtenAs_ok (congrArg some (cdp_eq_iff.mpr ⟨hc, h25, h24, rfl, rfl, rfl, rfl, rfl, h4, rfl⟩))
    case isFalse h4 =>
      have h4 : true = w.getLsbD 4 := by simpa using h4
      have hword {l : BitVec 1} (hl : l.getLsbD 0 = w.getLsbD 20) :=
        congrArg some (coprocessorRegister_eq_iff.mpr ⟨hc, h25, h24, rfl, hl, rfl, rfl, rfl, rfl, h4, rfl⟩)
      split
      case isTrue h20 => exact writtenAs_ok (hword h20.symm)
      case isFalse h20 => exact writtenAs_ok (hword (Bool.eq_false_iff.mpr h20).symm)

theorem writtenAs_decodeStatusBranch (h25 : 0b000#3 = field w 25 3) (h23 : 0b10#2 = field w 23 2)
    (h20 : false = w.getLsbD 20) : WrittenAs w (decodeStatusBranch c w) := by
  have hmrs {r : Bool} (h21 : bit r ++ 0#1 = field w 21 2) (h : (field w 16 4 == 15 && field w 0 12 == 0) = true) :
      encodeWord (.mrs c r (field w 12 4)) = some w := by
    obtain ⟨h16, h0⟩ := Bool.and_eq_true_iff.mp h
    exact congrArg some
      (mrs_eq_iff.mpr ⟨hc, h25, h23, h21, h20, (eq_of_beq h16).symm, rfl, (eq_of_beq h0).symm⟩)
  have hmsr {r : Bool} (h4 : field w 4 4 = 0b0000) (h21 : bit r ++ 1#1 = field w 21 2)
      (h : (field w 12 4 == 15 && field w 8 4 == 0) = true) :
      encodeWord (.msrReg c r (field w 16 4) (field w 0 4)) = some w := by
    obtain ⟨h12, h8⟩ := Bool.and_eq_true_iff.mp h
    exact congrArg some
      (msrReg_eq_iff.mpr ⟨hc, h25, h23, h21, h20, rfl, (eq_of_beq h12).symm, (eq_of_beq h8).symm, h4.symm, rfl⟩)
  have hexchange {x : BitVec 12} {k y : BitVec 4} (h4 : field w 4 4 = k) (h21 : field w 21 2 = 0b01)
      (h8 : x = field w 8 12) (h0 : y = field w 0 4) : c.bits ++ 0b00010010#8 ++ x ++ k ++ y = w :=
    exchange_eq_iff.mpr ⟨hc, ⟨h25, h23, h21.symm, h20⟩, h8, h4.symm, h0⟩
  unfold decodeStatusBranch
  split
  case h_1 h4 h21 | h_2 h4 h21 => exact writtenAs_shouldBe (hmrs h21.symm)
  case h_3 h4 h21 => exact writtenAs_shouldBe (hmsr h4 h21.symm)
  case h_4 h4 h0 h2 h1 =>
    have h21 : field w 21 2 = 0b11 := by simp only [imp_false] at h0 h1 h2; bv_omega
    exact writtenAs_shouldBe (hmsr h4 h21.symm)
  case h_5 h4 h21 =>
    exact writtenAs_shouldBe fun h => congrArg some (hexchange h4 h21 (eq_of_beq h).symm rfl)
  case h_6 h4 h21 =>
    rw [if_pos (show archV5T = true from rfl)]
    exact writtenAs_shouldBe fun h => congrArg some (hexchange h4 h21 (eq_of_beq h).symm rfl)
  case h_7 h4 h21 =>
    split
    case isTrue hal =>
      obtain rfl : c = .al := eq_of_beq (Bool.and_eq_true_iff.mp hal).2
      exact writtenAs_ok (congrArg some
        (hexchange h4 h21 BitVec.extractLsb'_append_eq_left BitVec.extractLsb'_append_eq_right))
    case isFalse => exact writtenAs_error
  case h_8 => exact writtenAs_error

theorem writtenAs_decode000 (h25 : 0b000#3 = field w 25 3) : WrittenAs w (decode000 c w) := by
  unfold decode000
  split
  case isTrue h =>
    obtain ⟨h7, h4⟩ := Bool.and_eq_true_iff.mp h
    split
    case isTrue h5 => exact writtenAs_decodeMultiplySwap hc h25 h7.symm (eq_of_beq h5).symm h4.symm
    case isFalse h5 => exact writtenAs_decodeHalf hc h25 h7.symm (fun h => h5 (beq_iff_eq.mpr h)) h4.symm
  case isFalse h74 =>
    split
    case isTrue h =>
      obtain ⟨h23, h20⟩ := Bool.and_eq_true_iff.mp h
      exact writtenAs_decodeStatusBranch hc h25 (eq_of_beq h23).symm (Bool.not_eq_true' _ |>.mp h20).symm
    case isFalse h =>
      have htest : field w 23 2 = 2 → w.getLsbD 20 = true := by simpa using h
      obtain ⟨-, hshiftImm, hshiftReg⟩ := writtenAs_dataProcessing (c := c) htest
      split
      case isTrue h4 =>
        have h7 : false = w.getLsbD 7 := by simpa [h4] using h74
        exact hshiftReg fun _ _ _ _ ho hs hn hd =>
          encDpShiftReg_eq_iff.mpr ⟨hc, h25, ho.symm, hs, hn, hd, rfl, h7, ShiftKind.bits_ofBits _, h4.symm, rfl⟩
      case isFalse h4 =>
        have h4 := (Bool.eq_false_iff.mpr h4).symm
        exact hshiftImm fun _ _ _ _ ho hs hn hd =>
          encDpShiftImm_eq_iff.mpr ⟨hc, h25, ho.symm, hs, hn, hd, rfl, ShiftKind.bits_ofBits _, h4, rfl⟩

theorem writtenAs_decode001 (h25 : 0b001#3 = field w 25 3) : WrittenAs w (decode001 c w) := by
  unfold decode001
  split
  case isTrue h =>
    obtain ⟨h23, h20⟩ := Bool.and_eq_true_iff.mp h
    have h23 := (eq_of_beq h23).symm
    have h20 := (Bool.not_eq_true' _ |>.mp h20).symm
    split
    case isTrue h21 =>
      exact writtenAs_shouldBe fun h12 => congrArg some
        (msrImm_eq_iff.mpr ⟨hc, h25, h23, rfl, h21.symm, h20, rfl, (eq_of_beq h12).symm, rfl, rfl⟩)
    case isFalse h21 =>
      exact writtenAs_ok (congrArg some
        (undefMsr_eq_iff.mpr ⟨hc, h25, h23, rfl, (Bool.eq_false_iff.mpr h21).symm, h20, rfl⟩))
  case isFalse h =>
    have htest : field w 23 2 = 2 → w.getLsbD 20 = true := by simpa using h
    obtain ⟨himm, -, -⟩ := writtenAs_dataProcessing (c := c) htest
    exact himm fun _ _ _ _ ho hs hn hd =>
      encDpImm_eq_iff.mpr ⟨hc, h25, ho.symm, hs, hn, hd, rfl, rfl⟩

theorem writtenAs_decodeConditional : WrittenAs w (decodeConditional c w) := by
  unfold decodeConditional
  split
  case h_1 h25 => exact writtenAs_decode000 hc h25.symm
  case h_2 h25 => exact writtenAs_decode001 hc h25.symm
  case h_3 h25 =>
    exact writtenAs_transfers.1 fun _ _ _ _ hp hb hl hwb =>
      encTransferImm_eq_iff.mpr ⟨hc, h25.symm, hp.symm, rfl, hb.symm, hwb, hl.symm, rfl, rfl, rfl⟩
  case h_4 h25 =>
    split
    case isTrue h4 =>
      exact writtenAs_ok (congrArg some (undefMem_eq_iff.mpr ⟨hc, h25.symm, rfl, h4.symm, rfl⟩))
    case isFalse h4 =>
      have h4 := (Bool.eq_false_iff.mpr h4).symm
      exact writtenAs_transfers.2 fun _ _ _ _ hp hb hl hwb => encTransferReg_eq_iff.mpr
        ⟨hc, h25.symm, hp.symm, rfl, hb.symm, hwb, hl.symm, rfl, rfl, rfl, ShiftKind.bits_ofBits _, h4, rfl⟩
  case h_5 h25 => exact writtenAs_decodeBlock hc h25.symm
  case h_6 h25 =>
    split
    case isTrue h24 => exact writtenAs_ok (congrArg some (branch_eq_iff.mpr ⟨hc, h25.symm, h24.symm, rfl⟩))
    case isFalse h24 =>
      exact writtenAs_ok (congrArg some (branch_eq_iff.mpr ⟨hc, h25.symm, (Bool.eq_false_iff.mpr h24).symm, rfl⟩))
  case h_7 h25 => exact writtenAs_decodeCoprocessorTransfer hc h25.symm
  case h_8 =>
    have h25 : field w 25 3 = 0b111 := by simp only [imp_false] at *; bv_omega
    exact writtenAs_decodeCoprocessorSwi hc h25.symm

end

/-- Only 1111 is no condition (R148). -/
theorem Cond.eq_never_of_ofBits {b : BitVec 4} (h : Cond.ofBits b = none) : b = 0b1111 := by
  revert b; decide

/-- Every word that decodes is the one the encoder writes for its instruction. -/
theorem writtenAs_decodeWord (w : Word) : WrittenAs w (decodeWord w) := by
  unfold decodeWord
  split
  case h_1 c hc => exact writtenAs_decodeConditional (Cond.bits_ofBits hc)
  case h_2 hnone =>
    split
    case isTrue h =>
      have h25 := eq_of_beq (Bool.and_eq_true_iff.mp h).2
      exact writtenAs_ok (congrArg some
        (blxImm_eq_iff.mpr ⟨(Cond.eq_never_of_ofBits hnone).symm, h25.symm, rfl, rfl⟩))
    case isFalse => exact writtenAs_error

theorem isPseudo_of_encodeWord {i : Instr} {w : Word} (h : encodeWord i = some w) : i.isPseudo = false := by
  cases i
  case ldrPseudo | adr | adrl | nop => cases h
  all_goals rfl

end Sys2Proof

namespace Sys2Proof.Machine

/-- Settles O5: the encoder writes the word back, and it has no word for a pseudo-instruction. -/
theorem decodingIsInjective : Obligations.DecodingIsInjective := by
  intro w i hd
  have hw : encodeWord i = some w := writtenAs_decodeWord w i hd
  exact ⟨hw, isPseudo_of_encodeWord hw⟩

end Sys2Proof.Machine
end

section
/-! PROOFS. The operand-2 values: the rotated immediate, RRX and the shifted registers (40_conditions_and_operand2.md R183,
R184). -/
namespace Sys2Proof.Machine

/-- The rotated immediate bit by bit (R126). -/
theorem rotImmShifted_value_getLsbD (op : RotImm) (c : Bool) {k : Nat} (hk : k < 32) :
    (rotImmShifted op c).value.getLsbD k
      = if (k + 2 * op.rot.toNat) % 32 < 8 then op.imm8.getLsbD ((k + 2 * op.rot.toNat) % 32) else false := by
  have hrot : 2 * op.rot.toNat < 32 := by omega
  have hbyte (m : Nat) (hm : m < 32) :
      (op.imm8.setWidth 32).getLsbD m = if m < 8 then op.imm8.getLsbD m else false := by
    rw [BitVec.getLsbD_setWidth, decide_eq_true hm, Bool.true_and]
    split
    · rfl
    · exact BitVec.getLsbD_of_ge _ _ (by omega)
  simp only [rotImmShifted, rotImmValue, BitVec.getLsbD_rotateRight, Nat.mod_eq_of_lt hrot, hk, decide_true, Bool.true_and,
    Bool.cond_eq_ite, decide_eq_true_eq]
  rw [← hbyte _ (Nat.mod_lt _ (by decide))]
  split <;> (congr 1; omega)

/-- RRX bit by bit (R183). -/
theorem shiftRrx_bits (x : Word) (c : Bool) :
    (shiftRrx x c).value.getLsbD 31 = c ∧ ∀ k, k < 31 → (shiftRrx x c).value.getLsbD k = x.getLsbD (k + 1) := by
  constructor
  · rw [shiftRrx, getLsbD_append_high _ _ 31 le_rfl]
    exact bit_getLsbD c
  · intro k hk
    rw [shiftRrx, getLsbD_append_low _ _ k hk, BitVec.getLsbD_extractLsb', decide_eq_true hk, Bool.true_and, Nat.add_comm]

theorem shiftRegShifted_of_ne {s : State} {sr : ShiftReg} (hm : sr.rm ≠ 15) (hs : sr.rs ≠ 15) :
    shiftRegShifted sr s = shiftBy sr.kind (s.reg sr.rm) ((s.reg sr.rs).toNat % 256) (s.cpsr.getLsbD 29) := by
  rw [shiftRegShifted, readReg_of_ne s hm, readReg_of_ne s hs, BitVec.extractLsb'_toNat]
  rfl

/-- Settles O18: the rotation and RRX bit by bit; the other clauses are the definitions, once R15 is left out. -/
theorem rotatedImmediateAndRrx : Obligations.RotatedImmediateAndRrx := by
  refine ⟨fun op c => ⟨fun k hk => rotImmShifted_value_getLsbD op c hk, rfl⟩, fun x c => ?_⟩
  obtain ⟨htop, hlow⟩ := shiftRrx_bits x c
  exact ⟨htop, rfl, hlow, fun s r si sr => ⟨rfl, rfl, shiftRegShifted_of_ne, rfl⟩⟩

end Sys2Proof.Machine
end

section
/-! PROOFS. Every conditional instruction behind its condition test (00_scope.md R12, 40_conditions_and_operand2.md R170). -/
namespace Sys2Proof.Machine

/-- Every real instruction with a condition is its meaning behind the condition test (R12, R170). -/
theorem exec_eq_conditional {i : Instr} {c : Cond} (hp : i.isPseudo = false) (hc : i.cond? = some c) :
    ∃ act, ∀ s, exec i s = conditional c i s act := by
  cases i
  case blxImm | bkpt | nop => cases hc
  case ldrPseudo | adr | adrl => cases hp
  all_goals
    obtain rfl := Option.some.inj hc
    exact ⟨_, fun _ => rfl⟩

theorem cond?_eq_none_iff (i : Instr) :
    i.cond? = none ↔ (∃ h off, i = .blxImm h off) ∨ (∃ k, i = .bkpt k) ∨ i = .nop := by
  constructor
  · intro h
    cases i
    case blxImm hbit off => exact .inl ⟨hbit, off, rfl⟩
    case bkpt k => exact .inr (.inl ⟨k, rfl⟩)
    case nop => exact .inr (.inr rfl)
    all_goals cases h
  · rintro (⟨_, _, rfl⟩ | ⟨_, rfl⟩ | rfl) <;> rfl

/-- Settles O14: the failed condition leaves the advance of the PC alone, and the other clause is the table of conditions. -/
theorem failedConditionOnlyAdvances : Obligations.FailedConditionOnlyAdvances := by
  refine ⟨fun i c s hp hc hfail => ?_, cond?_eq_none_iff⟩
  obtain ⟨act, hact⟩ := exec_eq_conditional hp hc
  have hadv : exec i s = advance s := (hact s).trans (conditional_failed hfail)
  exact ⟨fun hpc => hadv.trans (advance_of_ne hpc), fun hpc => hadv.trans (if_pos hpc)⟩

end Sys2Proof.Machine
end

section
/-! PROOFS. What an addition and a subtraction set in the flags (42_data_processing.md R252), and the conditions after a compare
(40_conditions_and_operand2.md R171). -/
namespace Sys2Proof.Machine

theorem addResult_value_toNat (a b : Word) (cin : Bool) :
    (addResult a b cin).value.toNat = (a.toNat + b.toNat + cin.toNat) % 2 ^ 32 := by
  cases cin <;> simp [addResult]

/-- A 32-bit word as a signed number, with the numerals `omega` needs. -/
theorem word_toInt (x : Word) : x.toInt = if x.toNat < 2147483648 then (x.toNat : Int) else x.toNat - 4294967296 := by
  rw [BitVec.toInt_eq_toNat_cond]
  split <;> split <;> omega

theorem word_toInt_not (x : Word) : (~~~x).toInt = -x.toInt - 1 := by
  simp only [word_toInt, BitVec.toNat_not]
  have hx := x.isLt
  omega

theorem addResult_flags_n_iff (a b : Word) (cin : Bool) :
    (addResult a b cin).flags.n = true ↔ (addResult a b cin).value.toInt < 0 := by
  simp [addResult, BitVec.msb_eq_toInt]

/-- Overflow: the summands agree in sign and the result does not (R252), which is when the exact sum has no 32-bit form. -/
theorem addResult_flags_v_iff (a b : Word) (cin : Bool) :
    (addResult a b cin).flags.v = true
      ↔ a.toInt + b.toInt + (cin.toNat : Int) < -2147483648 ∨ 2147483647 < a.toInt + b.toInt + (cin.toNat : Int) := by
  have hv : (addResult a b cin).flags.v = true
      ↔ (a.toInt < 0 ↔ b.toInt < 0) ∧ ¬ ((addResult a b cin).value.toInt < 0 ↔ a.toInt < 0) := by
    simp [addResult, BitVec.msb_eq_toInt]
  have hsum := addResult_value_toNat a b cin
  have hcin : cin.toNat ≤ 1 := Bool.toNat_le cin
  rw [hv]
  simp only [word_toInt]
  omega

theorem subResult_value (a b : Word) : (subResult a b true).value = a - b := by
  apply BitVec.eq_of_toNat_eq
  have hb := b.isLt
  rw [subResult, addResult_value_toNat, BitVec.toNat_not, BitVec.toNat_sub, Bool.toNat_true]
  congr 1
  omega

/-- C is NOT borrow (R252). -/
theorem subResult_flags_c_iff (a b : Word) (cin : Bool) :
    (subResult a b cin).flags.c = true ↔ b.toNat + 1 ≤ a.toNat + cin.toNat := by
  have hb := b.isLt
  simp only [subResult, addResult, BitVec.toNat_not, decide_eq_true_eq]
  omega

theorem subResult_flags_v_iff (a b : Word) (cin : Bool) :
    (subResult a b cin).flags.v = true
      ↔ a.toInt - b.toInt - 1 + (cin.toNat : Int) < -2147483648
        ∨ 2147483647 < a.toInt - b.toInt - 1 + (cin.toNat : Int) := by
  rw [subResult, addResult_flags_v_iff, word_toInt_not]
  omega

theorem subResult_flags_z_iff (a b : Word) : (subResult a b true).flags.z = true ↔ a = b := by
  have hz : (subResult a b true).flags.z = ((subResult a b true).value == 0) := rfl
  rw [hz, subResult_value, beq_iff_eq, sub_eq_zero]

theorem subResult_flags_n_iff (a b : Word) : (subResult a b true).flags.n = true ↔ (a - b).toInt < 0 := by
  rw [← subResult_value]
  exact addResult_flags_n_iff a (~~~b) true

/-- N = V says the sign of the exact difference. -/
theorem subResult_flags_n_eq_v_iff (a b : Word) :
    (subResult a b true).flags.n = (subResult a b true).flags.v ↔ b.toInt ≤ a.toInt := by
  rw [Bool.eq_iff_iff, subResult_flags_n_iff, subResult_flags_v_iff, Bool.toNat_true]
  simp only [word_toInt, BitVec.toNat_sub]
  have ha := a.isLt
  have hb := b.isLt
  omega

/-- The even and the odd condition of each pair (R171). -/
theorem condHolds_complements (f : Flags) :
    condHolds .ne f = !condHolds .eq f ∧ condHolds .cc f = !condHolds .cs f
      ∧ condHolds .ls f = !condHolds .hi f ∧ condHolds .lt f = !condHolds .ge f ∧ condHolds .le f = !condHolds .gt f
      ∧ condHolds .pl f = !condHolds .mi f ∧ condHolds .vc f = !condHolds .vs f ∧ condHolds .al f = true := by
  simp [condHolds, bne]

/-- Settles O16: each condition is read off the flags of the difference; the exact one has the sign that N and V give. -/
theorem conditionsAfterCompare : Obligations.ConditionsAfterCompare := by
  intro a b
  have hz := subResult_flags_z_iff a b
  have hc := subResult_flags_c_iff a b true
  have hnv := subResult_flags_n_eq_v_iff a b
  have hv := subResult_flags_v_iff a b true
  refine ⟨hz, ?cs, ?hi, ?ge, ?gt, ?mi, ?vs, condHolds_complements⟩
  case cs => exact hc.trans Nat.add_le_add_iff_right
  case hi =>
    rw [condHolds, Bool.and_eq_true, Bool.not_eq_true', Bool.eq_false_iff, ne_eq, hz, hc, ← BitVec.toNat_inj,
      Bool.toNat_true]
    omega
  case ge => rw [condHolds, beq_iff_eq, hnv]
  case gt =>
    rw [condHolds, Bool.and_eq_true, Bool.not_eq_true', Bool.eq_false_iff, ne_eq, beq_iff_eq, hz, hnv,
      ← BitVec.toInt_inj]
    omega
  case mi => rw [← BitVec.msb_eq_getLsbD_last, ← subResult_value]; rfl
  case vs => rw [condHolds, hv, Bool.toNat_true]; omega

end Sys2Proof.Machine
end

section
/-! PROOFS. The four shifts by every amount: value and carry-out (40_conditions_and_operand2.md R179 to R182). -/
namespace Sys2Proof.Machine

theorem shiftLsl_value (x : Word) (n : Nat) (c : Bool) : (shiftLsl x n c).value = x <<< n := by
  unfold shiftLsl
  split
  case isTrue h => rw [h, BitVec.shiftLeft_zero]
  split
  case isTrue => rfl
  have hzero : x <<< n = 0#32 := BitVec.shiftLeft_eq_zero (by omega)
  split <;> exact hzero.symm

theorem shiftLsr_value (x : Word) (n : Nat) (c : Bool) : (shiftLsr x n c).value = x >>> n := by
  unfold shiftLsr
  split
  case isTrue h => rw [h, BitVec.ushiftRight_zero]
  split
  case isTrue => rfl
  have hzero : x >>> n = 0#32 := BitVec.ushiftRight_eq_zero (by omega)
  split <;> exact hzero.symm

/-- From 32 on every bit is the sign (R181). -/
theorem shiftAsr_value (x : Word) (n : Nat) (c : Bool) : (shiftAsr x n c).value = x.sshiftRight n := by
  unfold shiftAsr
  split
  case isTrue h => rw [h, BitVec.sshiftRight_zero]
  split
  case isTrue => rfl
  apply BitVec.eq_of_getLsbD_eq
  intro k hk
  rw [BitVec.getLsbD_sshiftRight, decide_eq_false (show ¬ 32 ≤ k by omega), Bool.not_false, Bool.true_and,
    if_neg (show ¬ n + k < 32 by omega), BitVec.msb_eq_getLsbD_last]
  split
  case isTrue h => exact (BitVec.getLsbD_allOnes.trans (decide_eq_true hk)).trans h.symm
  case isFalse h => exact BitVec.getLsbD_zero.trans (Bool.eq_false_iff.mpr h).symm

/-- A rotation to the right takes bit `k` from place `(k + n) mod w`. -/
theorem getLsbD_rotateRight_mod {w : Nat} (x : BitVec w) (n : Nat) {k : Nat} (hk : k < w) :
    (x.rotateRight n).getLsbD k = x.getLsbD ((k + n) % w) := by
  have hn : n % w < w := Nat.mod_lt n (by omega)
  rw [BitVec.getLsbD_rotateRight, decide_eq_true hk, Bool.true_and, ← Nat.add_mod_mod]
  by_cases hlow : k < w - n % w
  · have hstay : (k + n % w) % w = k + n % w := Nat.mod_eq_of_lt (by omega)
    rw [decide_eq_true hlow, cond_true, hstay, Nat.add_comm]
  · have hwrap : (k + n % w) % w = k - (w - n % w) := by
      rw [Nat.mod_eq_sub_mod (by omega), Nat.mod_eq_of_lt (by omega)]
      omega
    rw [decide_eq_false hlow, cond_false, hwrap]

theorem word_rotateRight_zero (x : Word) : x.rotateRight 0 = x :=
  BitVec.eq_of_getLsbD_eq fun k hk => by rw [getLsbD_rotateRight_mod x 0 hk, Nat.add_zero, Nat.mod_eq_of_lt hk]

theorem shiftRor_value (x : Word) (n : Nat) (c : Bool) : (shiftRor x n c).value = x.rotateRight n := by
  have hmod : x.rotateRight (n % 32) = x.rotateRight n := BitVec.rotateRight_mod_eq_rotateRight
  unfold shiftRor
  split
  case isTrue h => rw [h, word_rotateRight_zero]
  split
  case isTrue h => rw [← hmod, h, word_rotateRight_zero]
  case isFalse => exact hmod

theorem shiftLsl_carry (x : Word) (n : Nat) (c : Bool) :
    (shiftLsl x n c).carry = if n = 0 then c else if n ≤ 32 then x.getLsbD (32 - n) else false := by
  unfold shiftLsl
  split
  case isTrue => rfl
  split
  case isTrue h => rw [if_pos (by omega)]
  split
  case isTrue h => subst h; rfl
  case isFalse => rw [if_neg (by omega)]

theorem shiftLsr_carry (x : Word) (n : Nat) (c : Bool) :
    (shiftLsr x n c).carry = if n = 0 then c else if n ≤ 32 then x.getLsbD (n - 1) else false := by
  unfold shiftLsr
  split
  case isTrue => rfl
  split
  case isTrue h => rw [if_pos (by omega)]
  split
  case isTrue h => subst h; rfl
  case isFalse => rw [if_neg (by omega)]

/-- At 32 the last bit shifted out and the sign are the same bit 31. -/
theorem shiftAsr_carry (x : Word) (n : Nat) (c : Bool) :
    (shiftAsr x n c).carry
      = if n = 0 then c else if n ≤ 32 then x.getLsbD (n - 1) else x.getLsbD 31 := by
  unfold shiftAsr
  split
  case isTrue => rfl
  split
  case isTrue h => rw [if_pos (by omega)]
  by_cases h32 : n = 32
  case pos => subst h32; rfl
  case neg => rw [if_neg (show ¬ n ≤ 32 by omega)]

theorem shiftRor_carry (x : Word) (n : Nat) (c : Bool) :
    (shiftRor x n c).carry = if n = 0 then c else x.getLsbD ((n - 1) % 32) := by
  unfold shiftRor
  split
  case isTrue => rfl
  split
  case isTrue h => rw [show (n - 1) % 32 = 31 by omega]
  case isFalse h => rw [show (n - 1) % 32 = n % 32 - 1 by omega]

/-- The field value 0 alone has a meaning of its own (R127). -/
theorem shiftByField_of_pos (kind : ShiftKind) (x : Word) {n : Nat} (c : Bool) (h : 0 < n) :
    shiftByField kind x n c = shiftBy kind x n c := by
  have hn : n ≠ 0 := h.ne'
  cases kind
  case lsl => rfl
  case lsr | asr => rw [shiftByField, if_neg hn, shiftBy]
  case ror => rw [shiftByField, if_neg hn, shiftBy]

/-- Settles O17: each kind of shift is the shift of bit vectors for every amount, and its carry-out is read off its ranges. -/
theorem shiftsByAnyAmount : Obligations.ShiftsByAnyAmount := by
  intro x n c
  refine ⟨?lsl, ?lsr, ?asr, ?ror, shiftLsl_carry x n c, shiftLsr_carry x n c, shiftAsr_carry x n c, shiftRor_carry x n c,
    rfl, rfl, rfl, fun kind h => shiftByField_of_pos kind x c h⟩
  case lsl => rw [shiftBy, shiftLsl_value, BitVec.toNat_shiftLeft, Nat.shiftLeft_eq]
  case lsr => rw [shiftBy, shiftLsr_value, BitVec.toNat_ushiftRight, Nat.shiftRight_eq_div_pow]
  case asr => rw [shiftBy, shiftAsr_value, BitVec.toInt_sshiftRight, Int.shiftRight_eq_div_pow]; norm_cast
  case ror =>
    intro k hk
    rw [shiftBy, shiftRor_value, getLsbD_rotateRight_mod x n hk]

end Sys2Proof.Machine
end

section
/-! PROOFS. A single load or store at a device register: one whole aligned word through the register's read or write, any other
access stopped (20_memory.md R75 to R77). -/
namespace Sys2Proof.Machine

/-! ### The access and the rest of the transfer -/

theorem AfterRead.afterDeviceWrite {s t : State} (h : AfterRead s t) : AfterDeviceWrite s t := by
  obtain ⟨_, _, _, _, rfl⟩ := h
  exact ⟨_, _, _, _, _, _, _, rfl⟩

theorem AfterDeviceWrite.trans {r s t : State} (h : AfterDeviceWrite r s) (h' : AfterDeviceWrite s t) :
    AfterDeviceWrite r t := by
  obtain ⟨_, _, _, _, _, _, _, rfl⟩ := h
  obtain ⟨_, _, _, _, _, _, _, rfl⟩ := h'
  exact ⟨_, _, _, _, _, _, _, rfl⟩

theorem AfterDeviceWrite.pc {s t : State} (h : AfterDeviceWrite s t) : t.pc = s.pc := by
  obtain ⟨_, _, _, _, _, _, _, rfl⟩ := h
  rfl

/-- An access that changed devices only, then a change of registers: the frame of a transfer at a device. -/
theorem AfterDeviceWrite.onlyDevice {s dev t : State} {written : List RegNum} (h : AfterDeviceWrite s dev)
    (hcpsr : t.cpsr = dev.cpsr) (honly : OnlyRegisters dev t written) (hidx : t.freeIdx = dev.freeIdx) :
    OnlyDevice s dev t written := by
  obtain ⟨hregs, ⟨-, hspsr⟩, hmem, hdev, hmark⟩ := honly
  obtain ⟨_, _, _, _, _, _, _, rfl⟩ := h
  exact ⟨hregs, hcpsr, hspsr, hmem, hdev, hidx, hmark⟩

theorem wholeWord_eq_false {w : Width} {p : Nat} (h : w.bytes ≠ 4 ∨ p % 4 ≠ 0) : wholeWord w p = false := by
  rw [wholeWord, Bool.and_eq_false_iff, beq_eq_false_iff_ne, beq_eq_false_iff_ne]
  exact h

theorem wholeWord_eq_true {w : Width} {p : Nat} (hw : w.bytes = 4) (h4 : p % 4 = 0) : wholeWord w p = true := by
  rw [wholeWord, hw, h4]
  rfl

/-- A device does not distinguish the two word accesses: both are aligned. -/
theorem memRead_device_word {a : Word} {w : Width} {st : State} {p : Nat} (hr : remap st.sys.memmap a = some p)
    (hd : (regionOf p).kind = .device) (hw : w.bytes = 4) (h4 : p % 4 = 0) : memRead a w st = memRead a .word st := by
  rw [memRead_device hr hd (wholeWord_eq_true hw h4), memRead_device hr hd (wholeWord_eq_true rfl h4)]

theorem memWrite_device_word {a v : Word} {w : Width} {st : State} {p : Nat} (hr : remap st.sys.memmap a = some p)
    (hd : (regionOf p).kind = .device) (hw : w.bytes = 4) (h4 : p % 4 = 0) :
    memWrite a w v st = memWrite a .word v st := by
  rw [memWrite_device hr hd (wholeWord_eq_true hw h4), memWrite_device hr hd (wholeWord_eq_true rfl h4)]

/-- A write to a device changes devices only, the PLL feed included. -/
theorem memWrite_device_ok {a v : Word} {w : Width} {st dev : State} {p : Nat} (hr : remap st.sys.memmap a = some p)
    (hd : (regionOf p).kind = .device) (h : memWrite a w v st = .ok () dev) : AfterDeviceWrite st dev := by
  obtain ⟨p', -, hr', hram, -⟩ | ⟨p', armed, -, -, -, hwrite⟩ := memWrite_ok h
  · obtain rfl := Option.some.inj (hr.symm.trans hr')
    rw [ram_kind hram] at hd
    cases hd
  · exact AfterDeviceWrite.trans ⟨_, _, _, _, _, _, _, rfl⟩ (writeDevice_ok hwrite)

/-! ### Loads and stores -/

/-- A load at a device: what the register's read gives or does. `ext` leaves an aligned word alone. -/
theorem loadsDevice_of_run {i : Instr} {st : State} {w : Width} {ext : Word → Word} {rn rd : RegNum} {m : Address}
    (h : Ready i st → RunsLoad i st w ext rn rd m)
    (hext : w.bytes = 4 → ∀ p, remap st.sys.memmap m.addr = some p → p % 4 = 0 → ∀ x, ext x = x) :
    LoadsDevice i st w.bytes m rn rd := by
  intro hready p hr hd
  obtain ⟨hrun, hbase⟩ := h hready
  refine ⟨fun hpart => ?_, fun hw h4 => ?_⟩
  · rw [hrun, loadTransfer, memRead_partial hr hd (wholeWord_eq_false hpart)]
  have hword := memRead_device_word hr hd hw h4
  refine ⟨fun f hf => ?_, fun dev hdev => ?_, fun x dev hdev => ?_⟩
  · rw [hrun, loadTransfer, hword, hf]
  · obtain ⟨p', -, rfl⟩ := memRead_abort hdev
    exact abortsAt_of_abortTransfer (hrun.trans (loadTransfer_of_abort (hword.trans hdev))) (disarmFeed_afterRead p' st)
      fun hwb => (hbase hwb).1
  · have hafter := (memRead_ok hdev).afterDeviceWrite
    have hexec : exec i st = writeLoaded rd x (writeBase rn m.wb dev) := by
      rw [hrun, loadTransfer, hword, hdev]
      simp only [hext hw p hr h4]
    refine ⟨fun hrd hpc => ?_, fun hrd hx => ?_, fun hrd hx => ?_⟩
    · rw [← hafter.pc] at hpc
      obtain ⟨t, hnext, hval, hwb, hpc', hcpsr, honly, hidx⟩ := writeLoaded_register hbase hrd hpc x
      exact ⟨t, hexec.trans hnext, hval, hwb, hafter.pc ▸ hpc', hafter.onlyDevice hcpsr honly hidx⟩
    · subst hrd
      obtain ⟨t, hnext, hpc, hwb, hcpsr, honly, hidx⟩ := writeLoaded_branch (st := dev) (fun hwb => (hbase hwb).1) hx
      exact ⟨t, hexec.trans hnext, hpc, hwb, hafter.onlyDevice hcpsr honly hidx⟩
    · rw [hexec, hrd]
      exact writeLoaded_misaligned hx

/-- A store at a device: what the register's write does. -/
theorem storesDevice_of_run {i : Instr} {st : State} {w : Width} {rn : RegNum} {v : Word} {m : Address}
    (h : Ready i st → exec i st = storeTransfer w rn v m st ∧ (m.wb.isSome = true → rn ≠ 15)) :
    StoresDevice i st w.bytes m rn v := by
  intro hready p hr hd
  obtain ⟨hrun, hrn⟩ := h hready
  refine ⟨fun hpart => ?_, fun hw h4 => ?_⟩
  · rw [hrun, storeTransfer, memWrite_partial hr hd (wholeWord_eq_false hpart)]
  have hword := memWrite_device_word (v := v) hr hd hw h4
  refine ⟨fun f hf => ?_, fun dev hdev => ?_, fun dev hdev hpc => ?_⟩
  · rw [hrun, storeTransfer, hword, hf]
  · exact abortsAt_of_abortTransfer (hrun.trans (storeTransfer_of_abort (hword.trans hdev))) (memWrite_abort hdev) hrn
  · have hafter := memWrite_device_ok hr hd hdev
    rw [← hafter.pc] at hpc
    obtain ⟨t, hnext, hchange, hpc', hwb, hkept⟩ := advance_writeBase hrn hpc
    refine ⟨t, ?_, hwb, hafter.pc ▸ hpc', hafter.onlyDevice hchange.cpsr (hchange.onlyRegisters hkept) hchange.freeIdx⟩
    rw [hrun, storeTransfer, hword, hdev]
    exact hnext

end Sys2Proof.Machine
end

section
/-! PROOFS. The single loads and stores at the addresses their width asks for: LDR and STR, and the byte and halfword forms
(41_load_store.md R203 to R210). -/
namespace Sys2Proof.Machine

/-! ### Loads -/

/-- A load: from a memory what `value` says of the bytes read, from a device what its read gives. -/
theorem loads_of_run {i : Instr} {st : State} {w : Width} {ext : Word → Word} {rn rd : RegNum} {m : Address}
    {value : Nat → Word} (h : Ready i st → RunsLoad i st w ext rn rd m)
    (hvalue : ∀ p, remap st.sys.memmap m.addr = some p → p % w.bytes = 0 → ext (st.bytesAt p w.bytes) = value p)
    (hext : w.bytes = 4 → ∀ p, remap st.sys.memmap m.addr = some p → p % 4 = 0 → ∀ x, ext x = x) :
    Loads i st w.bytes m rn rd value := by
  refine ⟨fun hready p hr hm hp => ?_, loadsDevice_of_run h hext⟩
  have hbase := (h hready).base
  have hexec : exec i st = writeLoaded rd (value p) (writeBase rn m.wb st) := by
    rw [(h hready).memory hr hm (alignAddress_of_dvd hp), hvalue p hr hp]
  refine ⟨fun hrd hpc => ?_, fun hrd hx => ?_, fun hrd hx => ?_⟩
  · rw [hexec]
    exact writeLoaded_register hbase hrd hpc _
  · rw [hexec, hrd]
    exact writeLoaded_branch (fun hwb => (hbase hwb).1) hx
  · rw [hexec, hrd]
    exact writeLoaded_misaligned hx

/-- LDR rotates nothing at an aligned address (R74). -/
theorem rotateLoaded_aligned {map : BitVec 2} {a : Word} {p : Nat} (h : remap map a = some p) (h4 : p % 4 = 0)
    (x : Word) : rotateLoaded a x = x := by
  rw [rotateLoaded_of_remap h, h4]
  exact word_rotateRight_zero x

theorem loads_word {i : Instr} {st : State} {rn rd : RegNum} {m : Address}
    (h : Ready i st → RunsLoad i st .word (rotateLoaded m.addr) rn rd m) : Loads i st 4 m rn rd st.wordAt :=
  loads_of_run (w := .word) h (fun p hr h4 => (rotateLoaded_aligned hr h4 _).trans (bytesAt_wordAt st p))
    fun _ _ hr h4 => rotateLoaded_aligned hr h4

theorem loads_narrow {i : Instr} {st : State} {w : Width} {ext : Word → Word} {rn rd : RegNum} {m : Address}
    {value : Nat → Word} (h : Ready i st → RunsLoad i st w ext rn rd m) (hw : w.bytes ≠ 4)
    (hvalue : ∀ p, ext (st.bytesAt p w.bytes) = value p) : Loads i st w.bytes m rn rd value :=
  loads_of_run h (fun p _ _ => hvalue p) fun hword => absurd hword hw

theorem signExtend8_bytesAt (st : State) (p : Nat) : signExtend8 (st.bytesAt p 1) = (st.byteAt p).signExtend 32 := by
  rw [bytesAt_one, signExtend8, BitVec.extractLsb'_setWidth_of_le (by decide), extract_all]

theorem signExtend16_bytesAt (st : State) (p : Nat) : signExtend16 (st.bytesAt p 2) = (st.halfAt p).signExtend 32 := by
  rw [bytesAt_halfAt, signExtend16, BitVec.extractLsb'_setWidth_of_le (by decide), extract_all]

/-- Settles O27: every form is the word load at the address it computes, which rotates nothing when aligned. (`loadWord` is
the model's word load.) -/
theorem loadWord_holds : Obligations.LoadWord := by
  unfold Obligations.LoadWord
  intro c u w rn rd imm12 off s
  refine ⟨?immPre, ?immPost, ?regPre, ?regPost⟩
  case immPre | regPre => exact loads_word fun h => runsLoad_of_ready h rfl (fun _ => rfl) rfl fun hi => baseAllowed_pre hi
  case immPost | regPost => exact loads_word fun h => runsLoad_of_ready h rfl (fun _ => rfl) rfl fun hi => baseAllowed_post hi

/-- Settles O28: every form is the narrow load at the address it computes, its extension applied to the bytes read. -/
theorem loadByteAndHalfword : Obligations.LoadByteAndHalfword := by
  unfold Obligations.LoadByteAndHalfword
  intro c u w rn rd rm imm8 imm12 off s
  have byte {i : Instr} {m : Address} (h : Ready i s → RunsLoad i s .byte id rn rd m) :
      Loads i s 1 m rn rd fun p => (s.byteAt p).setWidth 32 := loads_narrow h (by decide) fun p => bytesAt_one s p
  have half {i : Instr} {m : Address} (h : Ready i s → RunsLoad i s .half id rn rd m) :
      Loads i s 2 m rn rd fun p => (s.halfAt p).setWidth 32 := loads_narrow h (by decide) fun p => bytesAt_halfAt s p
  have signedByte {i : Instr} {m : Address} (h : Ready i s → RunsLoad i s .byte signExtend8 rn rd m) :
      Loads i s 1 m rn rd fun p => (s.byteAt p).signExtend 32 :=
    loads_narrow h (by decide) fun p => signExtend8_bytesAt s p
  have signedHalf {i : Instr} {m : Address} (h : Ready i s → RunsLoad i s .half signExtend16 rn rd m) :
      Loads i s 2 m rn rd fun p => (s.halfAt p).signExtend 32 :=
    loads_narrow h (by decide) fun p => signExtend16_bytesAt s p
  refine ⟨?bImmPre, ?bImmPost, ?bRegPre, ?bRegPost, ?hImmPre, ?hImmPost, ?hRegPre, ?hRegPost, ?sbImmPre, ?sbImmPost,
    ?sbRegPre, ?sbRegPost, ?shImmPre, ?shImmPost, ?shRegPre, ?shRegPost⟩
  case bImmPre | bRegPre => exact byte fun h => runsLoad_of_ready h rfl (fun _ => rfl) rfl fun hi => baseAllowed_pre hi
  case bImmPost | bRegPost => exact byte fun h => runsLoad_of_ready h rfl (fun _ => rfl) rfl fun hi => baseAllowed_post hi
  case hImmPre | hRegPre => exact half fun h => runsLoad_of_ready h rfl (fun _ => rfl) rfl fun hi => baseAllowed_pre hi
  case hImmPost | hRegPost => exact half fun h => runsLoad_of_ready h rfl (fun _ => rfl) rfl fun hi => baseAllowed_post hi
  case sbImmPre | sbRegPre =>
    exact signedByte fun h => runsLoad_of_ready h rfl (fun _ => rfl) rfl fun hi => baseAllowed_pre hi
  case sbImmPost | sbRegPost =>
    exact signedByte fun h => runsLoad_of_ready h rfl (fun _ => rfl) rfl fun hi => baseAllowed_post hi
  case shImmPre | shRegPre =>
    exact signedHalf fun h => runsLoad_of_ready h rfl (fun _ => rfl) rfl fun hi => baseAllowed_pre hi
  case shImmPost | shRegPost =>
    exact signedHalf fun h => runsLoad_of_ready h rfl (fun _ => rfl) rfl fun hi => baseAllowed_post hi

/-! ### Stores -/

/-- A store of register `rd`: to a RAM, or through the device's write. -/
theorem stores_of_run {i : Instr} {st : State} {w : Width} {rn rd : RegNum} {m : Address}
    (h : Ready i st → RunsStore i st w rn rd m) : Stores i st w.bytes m rn (st.storeReg rd) := by
  refine ⟨fun hready hs p hr hram hp hpre hpc => ?_,
    storesDevice_of_run fun hready => ⟨(h hready).run, fun hwb => ((h hready).base hwb).1⟩⟩
  have hq := alignAddress_of_dvd hp
  rw [(h hready).ram hr hram hq hpre]
  exact stored_writeBase hs (fun hwb => ((h hready).base hwb).1) hpc _ hram hq

/-- A narrow store does not store R15 (R206, R208). -/
theorem checkTransfer_narrow {wb : Bool} {rn rd : RegNum} {rm : Option RegNum}
    (h : checkTransfer true wb rn rd rm = none) : rd ≠ 15 := by
  have hpc := firstFailing_none h (why := .narrowTransferPc) (List.mem_cons_self ..)
  simpa only [Bool.true_and, beq_eq_false_iff_ne] using hpc

theorem stores_narrow {i : Instr} {st : State} {w : Width} {rn rd : RegNum} {rm : Option RegNum} {wb : Bool} {m : Address}
    (hi : i.illFormed = checkTransfer true wb rn rd rm) (h : Ready i st → RunsStore i st w rn rd m) :
    Stores i st w.bytes m rn (st.reg rd) := by
  have hval (hready : Ready i st) : st.storeReg rd = st.reg rd :=
    if_neg (checkTransfer_narrow (hi.symm.trans hready.illFormed))
  obtain ⟨hmemory, hdevice⟩ := stores_of_run h
  exact ⟨fun hready => (hval hready) ▸ hmemory hready, fun hready => (hval hready) ▸ hdevice hready⟩

/-- Settles O29: every form is the word store at the address it computes. (`storeWord` is the model's word store.) -/
theorem storeWord_holds : Obligations.StoreWord := by
  unfold Obligations.StoreWord
  intro c u w rn rd imm12 off s v
  refine ⟨?immPre, ?immPost, ?regPre, ?regPost⟩
  case immPre | regPre =>
    exact stores_of_run (w := .word) fun h => runsStore_of_ready h rfl (fun _ => rfl) rfl fun hi => baseAllowed_pre hi
  case immPost | regPost =>
    exact stores_of_run (w := .word) fun h => runsStore_of_ready h rfl (fun _ => rfl) rfl fun hi => baseAllowed_post hi

/-- Settles O30: every form is the narrow store at the address it computes. -/
theorem storeByteAndHalfword : Obligations.StoreByteAndHalfword := by
  unfold Obligations.StoreByteAndHalfword
  intro c u w rn rd rm imm8 imm12 off s
  refine ⟨?bImmPre, ?bImmPost, ?bRegPre, ?bRegPost, ?hImmPre, ?hImmPost, ?hRegPre, ?hRegPost⟩
  case bImmPre | bRegPre =>
    exact stores_narrow (w := .byte) rfl fun h =>
      runsStore_of_ready h rfl (fun _ => rfl) rfl fun hi => baseAllowed_pre hi
  case bImmPost | bRegPost =>
    exact stores_narrow (w := .byte) rfl fun h =>
      runsStore_of_ready h rfl (fun _ => rfl) rfl fun hi => baseAllowed_post hi
  case hImmPre | hRegPre =>
    exact stores_narrow (w := .half) rfl fun h =>
      runsStore_of_ready h rfl (fun _ => rfl) rfl fun hi => baseAllowed_pre hi
  case hImmPost | hRegPost =>
    exact stores_narrow (w := .half) rfl fun h =>
      runsStore_of_ready h rfl (fun _ => rfl) rfl fun hi => baseAllowed_post hi

end Sys2Proof.Machine
end

section
/-! PROOFS. SWP and SWPB (41_load_store.md R226, R227): with a RAM, with a device register, and where they stop. -/
namespace Sys2Proof.Machine

/-- In state `st`, `i` is the swap of width `w` between register `rm` and the address in `rn`, into `rd`. -/
structure RunsSwap (i : Instr) (st : State) (w : Width) (rn rd rm : RegNum) : Prop where
  run : exec i st = swapTransfer w rn rd rm st
  base : st.readReg rn = st.reg rn
  datum : st.readReg rm = st.reg rm
  dest : rd ≠ 15

theorem checkSwap_rm {rn rd rm : RegNum} (h : checkSwap rn rd rm = none) : rm ≠ 15 := by
  have hpc := firstFailing_none h (why := .swapPc) (List.mem_cons_self ..)
  rintro rfl
  simp at hpc

theorem runsSwap_of_ready {i : Instr} {c : Cond} {st : State} {act : State → Result} {w : Width} {rn rd rm : RegNum}
    (h : Ready i st) (hc : i.cond? = some c) (hi : i.illFormed = checkSwap rn rd rm)
    (he : ∀ s, exec i s = conditional c i s act) (ha : act st = swapTransfer w rn rd rm st) : RunsSwap i st w rn rd rm :=
  have hcheck := hi.symm.trans h.illFormed
  ⟨(exec_of_ready h hc he).trans ha, readReg_of_ne st (checkSwap_rn hcheck),
    readReg_of_ne st (checkSwap_rm hcheck), checkSwap_rd hcheck⟩

/-- The end of a swap: the destination written, and the next PC. -/
theorem advance_setReg {st : State} {rd : RegNum} (hrd : rd ≠ 15) (hpc : st.pc ≠ 0xFFFFFFFC) (x : Word) :
    ∃ t, advance (st.setReg rd x) = .next t ∧ RegsChange st t ∧ t.reg rd = x ∧ t.pc = st.pc + 4
      ∧ RegistersKept st t [rd] := by
  have hpc' : (st.setReg rd x).pc = st.pc := setReg_pc st rd x hrd
  refine ⟨_, ?_, (setReg_regsChange st rd x).trans (setPc_regsChange _ (st.pc + 4)), ?_, rfl,
    ((registersKept_of_regs rfl []).setReg rfl hrd x).setPc _⟩
  · rw [advance_of_ne (hpc'.symm ▸ hpc), hpc']
  · rw [reg_setPc _ _ hrd, reg_setReg_same]

/-- A swap with a RAM: the bytes read arrive, the datum of the state before is stored. -/
theorem swapsMemory_of_run {i : Instr} {st : State} {w : Width} {rn rd rm : RegNum} {value : Nat → Word}
    (h : Ready i st → RunsSwap i st w rn rd rm) (hvalue : ∀ p, st.bytesAt p w.bytes = value p) :
    SwapsMemory i st w.bytes (st.reg rn) rd value (st.reg rm) := by
  intro hready hs p hr hram hp hpre hpc
  obtain ⟨hrun, hbase, hdatum, hrd⟩ := h hready
  have hq := alignAddress_of_dvd hp
  have hexec : exec i st = advance ((storeMemory (regionOf p) p w (st.reg rm) st).setReg rd (value p)) := by
    rw [hrun, swapTransfer, hbase, hdatum, memRead_memory hr (ram_kind hram) hq, hvalue]
    simp only [memWrite_ram hr hram hq hpre]
  obtain ⟨t, hnext, hchange, hval, hpc', hkept⟩ :=
    advance_setReg (st := storeMemory (regionOf p) p w (st.reg rm) st) hrd hpc (value p)
  refine ⟨t, hexec.trans hnext, hval, fun k hk => ?_, hpc', hkept, hchange.cpsr, hchange.spsr, hchange.devicesKept,
    hchange.userBankLdm, hchange.freeIdx, fun a ha => ?_⟩
  · rw [hchange.byteAt, byteAt_store_inside hs _ hram hq hk]
  · rw [hchange.byteAt, byteAt_store_outside hs _ hram hq ha]

theorem AfterRead.memmap {s t : State} (h : AfterRead s t) : t.sys.memmap = s.sys.memmap := by
  obtain ⟨_, _, _, _, rfl⟩ := h
  rfl

/-- A swap with a device register: its read, then its write. -/
theorem swapsDevice_of_run {i : Instr} {st : State} {w : Width} {rn rd rm : RegNum}
    (h : Ready i st → RunsSwap i st w rn rd rm) : SwapsDevice i st w.bytes (st.reg rn) rd (st.reg rm) := by
  intro hready p hr hd
  obtain ⟨hrun, hbase, hdatum, hrd⟩ := h hready
  refine ⟨fun hpart => ?_, fun hw h4 => ?_⟩
  · rw [hrun, swapTransfer, hbase, memRead_partial hr hd (wholeWord_eq_false hpart)]
  have hread := memRead_device_word hr hd hw h4
  refine ⟨fun f hf => ?_, fun dev hdev => ?_, fun x mid hmid => ?_⟩
  · rw [hrun, swapTransfer, hbase, hread, hf]
  · obtain ⟨p', -, rfl⟩ := memRead_abort hdev
    have habort : memRead (st.readReg rn) w st = .abort (disarmFeed p' st) := by rw [hbase, hread, hdev]
    exact abortsAt_of_abortTransfer (hrun.trans (swapTransfer_of_abort habort)) (disarmFeed_afterRead p' st)
      fun hwb => (by cases hwb)
  · have hafter := memRead_ok hmid
    have hr' : remap mid.sys.memmap (st.reg rn) = some p := by rw [hafter.memmap, hr]
    have hwrite := memWrite_device_word (v := st.reg rm) hr' hd hw h4
    refine ⟨fun f hf => ?_, fun dev hdev hpc => ?_⟩
    · simp only [hrun, swapTransfer, hbase, hread, hmid, hdatum, hwrite, hf]
    · have hdevice := hafter.afterDeviceWrite.trans (memWrite_device_ok hr' hd hdev)
      rw [← hdevice.pc] at hpc
      obtain ⟨t, hnext, hchange, hval, hpc', hkept⟩ := advance_setReg hrd hpc x
      refine ⟨t, ?_, hval, hdevice.pc ▸ hpc',
        hdevice.onlyDevice hchange.cpsr (hchange.onlyRegisters hkept) hchange.freeIdx⟩
      simp only [hrun, swapTransfer, hbase, hread, hmid, hdatum, hwrite, hdev, hnext]

theorem RunsSwap.misaligned {i : Instr} {st : State} {w : Width} {rn rd rm : RegNum} {p : Nat}
    (h : RunsSwap i st w rn rd rm) (hr : remap st.sys.memmap (st.reg rn) = some p) (hm : plainMemory p)
    (hq : alignAddress w p = none) : exec i st = .fault .misaligned := by
  rw [h.run, swapTransfer, h.base, memRead_misaligned hr hm hq]

/-- Settles O31: the two swaps differ in their width only; a word has no place at a misaligned address (R74). -/
theorem swapExchanges : Obligations.SwapExchanges := by
  unfold Obligations.SwapExchanges
  intro c rn rd rm s
  have word (h : Ready (.swp c rn rd rm) s) : RunsSwap (.swp c rn rd rm) s .swapWord rn rd rm :=
    runsSwap_of_ready h rfl rfl (fun _ => rfl) rfl
  have byte (h : Ready (.swpb c rn rd rm) s) : RunsSwap (.swpb c rn rd rm) s .byte rn rd rm :=
    runsSwap_of_ready h rfl rfl (fun _ => rfl) rfl
  exact ⟨⟨swapsMemory_of_run word (bytesAt_wordAt s), swapsDevice_of_run word⟩,
    ⟨swapsMemory_of_run byte (bytesAt_one s), swapsDevice_of_run byte⟩,
    fun hready p hr hm h4 => (word hready).misaligned hr hm (if_neg h4)⟩

end Sys2Proof.Machine
end

section
/-! PROOFS. LDM and STM of one register without `^`: the single transfer of that register, so at a device the same statement
holds (41_load_store.md R222, R224, 20_memory.md R75). -/
namespace Sys2Proof.Machine

/-! ### A list of one register -/

theorem blockCount_single (rd : RegNum) : blockCount (1#16 <<< rd.toNat) = 1 := by
  revert rd
  decide

theorem blockRegs_single (rd : RegNum) : blockRegs (1#16 <<< rd.toNat) = if rd = 15 then [] else [rd] := by
  revert rd
  decide

theorem single_has_pc (rd : RegNum) : (1#16 <<< rd.toNat).getLsbD 15 = decide (rd = 15) := by
  revert rd
  decide

theorem writeBack_isSome (w : Bool) (v : Word) : (if w then some v else none).isSome = w := by
  cases w <;> rfl

/-- The address and write-back of a block of one word. -/
def singleBlock (p u w : Bool) (base : Word) : Address :=
  { addr := blockStart p u base 1, wb := if w then some (blockEnd u base 1) else none }

/-- The single word's addresses, as the statements write them. -/
theorem singleBlock_eq (p u w : Bool) (base : Word) :
    singleBlock p u w base
      = { addr := if u then (if p then base + 4 else base) else (if p then base - 4 else base)
          wb := if w then some (if u then base + 4 else base - 4) else none } := by
  have hpost : base - BitVec.ofNat 32 (4 * 1) + 4 = base := BitVec.sub_add_cancel base 4
  rw [singleBlock, blockStart_eq_ite, hpost]
  rfl

/-- One aligned word does not run past the last address (R103). -/
theorem blockWraps_single (start : Word) : blockWraps start 1 = false := decide_eq_false (by omega)

/-! ### The single load -/

theorem setReg_comm (st : State) {r r' : RegNum} (hr : r ≠ 15) (hr' : r' ≠ 15) (hne : r ≠ r') (v v' : Word) :
    (st.setReg r v).setReg r' v' = (st.setReg r' v').setReg r v := by
  have hplace : (physIndex st.mode r).val ≠ (physIndex st.mode r').val := fun h =>
    hne (physIndex_injective st.mode r r' hr hr' (Fin.ext h))
  simp only [State.setReg, setRegIn_of_ne _ _ hr, setRegIn_of_ne _ _ hr']
  exact congrArg (fun regs => { st with regs := regs }) (Vector.set_comm _ _ hplace)

/-- A block writes the base back after the register, a single load before it: they are different registers. -/
theorem writeBase_setReg {m : Address} {rn rd : RegNum} (hb : BaseAllowed m rn rd) (hrd : rd ≠ 15) (x : Word)
    (st : State) : writeBase rn m.wb (st.setReg rd x) = (writeBase rn m.wb st).setReg rd x := by
  cases hwb : m.wb with
  | none => rfl
  | some v =>
    obtain ⟨hrn, hne⟩ := hb (by rw [hwb]; rfl)
    exact setReg_comm st hrd hrn hne.symm x v

theorem writeBase_userBankLdm (rn : RegNum) (wb : Option Word) (st : State) :
    (writeBase rn wb st).userBankLdm = st.userBankLdm := (writeBase_regsChange rn wb st).userBankLdm

theorem AfterRead.userBankLdm {s t : State} (h : AfterRead s t) : t.userBankLdm = s.userBankLdm := by
  obtain ⟨_, _, _, _, rfl⟩ := h
  rfl

theorem unmark_of_unmarked {st : State} (h : st.userBankLdm = false) : { st with userBankLdm := false } = st :=
  h ▸ rfl

/-- The end of an LDM with R15 is the single load of R15. -/
theorem finishLdm_eq_loadTransfer {rn : RegNum} {wb : Option Word} {list : BitVec 16} {a : Word} {st : State}
    (h15 : list.getLsbD 15 = true) :
    finishLdm false rn wb list a st = loadTransfer .word id rn 15 { addr := a, wb := wb } st := by
  rw [finishLdm, if_pos h15]
  cases hread : memRead a .word st with
  | stop f => simp only [loadTransfer, hread]
  | abort dev => simp only [loadTransfer, hread]
  | ok x dev => simp only [loadTransfer, hread, writeLoaded, id, Bool.false_eq_true, if_false, if_true]

/-- The end of an STM with R15 is the single store of R15. -/
theorem finishStm_eq_storeTransfer {rn : RegNum} {wb : Option Word} {list : BitVec 16} {a : Word} {st : State}
    (h15 : list.getLsbD 15 = true) :
    finishStm rn wb list a st = storeTransfer .word rn (st.storeReg 15) { addr := a, wb := wb } st := by
  rw [finishStm, if_pos h15]
  cases hwrite : memWrite a .word (st.storeReg 15) st with
  | stop f => simp only [storeTransfer, hwrite]
  | abort dev => simp only [storeTransfer, hwrite]
  | ok _ dev => simp only [storeTransfer, hwrite]

theorem loadBlock_single {p u w : Bool} {rn rd : RegNum} {base : Word} {s : State} (hmark : s.userBankLdm = false)
    (hb : BaseAllowed (singleBlock p u w base) rn rd) :
    loadBlock p u false w rn (1#16 <<< rd.toNat) base s = loadTransfer .word id rn rd (singleBlock p u w base) s := by
  simp only [loadBlock, blockCount_single, blockRegs_single, blockWraps_single, Bool.false_and, Bool.false_eq_true, if_false]
  by_cases hrd : rd = 15
  · subst hrd
    rw [if_pos rfl]
    exact finishLdm_eq_loadTransfer (single_has_pc 15)
  · simp only [hrd, if_false, loadRegs, finishLdm, single_has_pc, decide_false, Bool.false_eq_true, loadTransfer,
      writeLoaded, singleBlock, id]
    cases hread : memRead (blockStart p u base 1) .word s with
    | stop f => rfl
    | abort dev => rfl
    | ok x dev =>
      have hclear : (writeBase rn (singleBlock p u w base).wb (dev.setReg rd x)).userBankLdm = false := by
        rw [writeBase_userBankLdm, setReg_userBankLdm, (memRead_ok hread).userBankLdm, hmark]
      exact congrArg advance ((unmark_of_unmarked hclear).trans (writeBase_setReg hb hrd x dev))

theorem storeBlock_single {p u w : Bool} {rn rd : RegNum} {base : Word} {s : State} :
    storeBlock p u false w rn (1#16 <<< rd.toNat) base s
      = storeTransfer .word rn (s.storeReg rd) (singleBlock p u w base) s := by
  simp only [storeBlock, blockCount_single, blockRegs_single, blockWraps_single, Bool.false_and, Bool.false_eq_true,
    if_false]
  by_cases hrd : rd = 15
  · subst hrd
    rw [if_pos rfl]
    exact finishStm_eq_storeTransfer (single_has_pc 15)
  · simp only [hrd, if_false, storeRegs, finishStm, single_has_pc, decide_false, Bool.false_eq_true, storeTransfer,
      singleBlock, State.storeReg]
    cases memWrite (blockStart p u base 1) .word (s.reg rd) s with
    | stop f => rfl
    | abort dev => rfl
    | ok _ dev => rfl

/-! ### The instructions -/

/-- A ready LDM is the block load from its base. -/
theorem exec_ldm {c : Cond} {p u sb w : Bool} {rn : RegNum} {list : BitVec 16} {s : State}
    (h : Ready (.ldm c p u sb w rn list) s) :
    exec (.ldm c p u sb w rn list) s = loadBlock p u sb w rn list (s.reg rn) s := by
  have hexec := exec_of_ready h rfl fun _ => rfl
  rwa [readReg_of_ne s (checkLdm_rn h.illFormed)] at hexec

theorem exec_stm {c : Cond} {p u sb w : Bool} {rn : RegNum} {list : BitVec 16} {s : State}
    (h : Ready (.stm c p u sb w rn list) s) :
    exec (.stm c p u sb w rn list) s = storeBlock p u sb w rn list (s.reg rn) s := by
  have hexec := exec_of_ready h rfl fun _ => rfl
  rwa [readReg_of_ne s (checkStm_rn h.illFormed)] at hexec

/-- A base that LDM writes back is not the register it loads. -/
theorem baseAllowed_single {p u sb w : Bool} {rn rd : RegNum} {base : Word}
    (h : checkLdm sb w rn (1#16 <<< rd.toNat) = none) : BaseAllowed (singleBlock p u w base) rn rd := by
  intro hwb
  have hw : w = true := (writeBack_isSome w _).symm.trans hwb
  have hrn := checkLdm_rn h
  obtain ⟨hnew, -⟩ := checkLdm_base h hw
  refine ⟨hrn, ?_⟩
  rintro rfl
  rw [blockRegs_single, if_neg hrn] at hnew
  exact hnew (List.mem_singleton_self rn)

theorem ldm_single_loadsDevice (c : Cond) (p u w : Bool) (rn rd : RegNum) {s : State} (hmark : s.userBankLdm = false) :
    LoadsDevice (.ldm c p u false w rn (1#16 <<< rd.toNat)) s 4 (singleBlock p u w (s.reg rn)) rn rd :=
  loadsDevice_of_run (w := .word) (ext := id)
    (fun hready =>
      have hb := baseAllowed_single hready.illFormed
      ⟨(exec_ldm hready).trans (loadBlock_single hmark hb), hb⟩)
    fun _ _ _ _ _ => rfl

theorem stm_single_storesDevice (c : Cond) (p u w : Bool) (rn rd : RegNum) (s : State) :
    StoresDevice (.stm c p u false w rn (1#16 <<< rd.toNat)) s 4 (singleBlock p u w (s.reg rn)) rn (s.storeReg rd) :=
  storesDevice_of_run (w := .word) fun hready =>
    ⟨(exec_stm hready).trans storeBlock_single, fun _ => checkStm_rn hready.illFormed⟩

end Sys2Proof.Machine
end

section
/-! PROOFS. LDM and STM of any list whose words lie aligned in the memories, and where they stop (41_load_store.md R222 to R224,
60_exceptions.md R438). -/
namespace Sys2Proof.Machine

/-! ### Aligned blocks -/

/-- Every word of a block from an aligned start is aligned, after the remap too. -/
theorem wordAddress_aligned {start : Word} (h4 : start.toNat % 4 = 0) {map : BitVec 2} {j q : Nat}
    (hq : remap map (start + BitVec.ofNat 32 (4 * j)) = some q) : q - q % 4 = q := by
  have hmod := remap_mod4 hq
  rw [BitVec.toNat_add, BitVec.toNat_ofNat] at hmod
  omega

theorem blockStarts_of_aligned {sb : Bool} {start : Word} {n : Nat} {s : State}
    (hspsr : sb = true → s.currentSpsr.isSome = true) (hfit : start.toNat + 4 * n ≤ 2 ^ 32) : BlockStarts sb start n s :=
  ⟨hspsr, by omega⟩

/-- An LDM from an aligned start, as the statements write what it loads, its base and what it keeps. -/
theorem ListLoaded.of_aligned {s t : State} {bank : Mode} {list : BitVec 16} {start final : Word} {rn : RegNum} {w : Bool}
    (h : ListLoaded s t bank list start rn (if w then some final else none)) (h4 : start.toNat % 4 = 0) :
    (∀ k, k < 15 → list.getLsbD k = true →
      ∀ q, remap s.sys.memmap (start + BitVec.ofNat 32 (4 * listRank list k)) = some q →
        t.regIn bank (BitVec.ofNat 4 k) = s.wordAt q)
    ∧ (w = true → t.regIn s.mode rn = final)
    ∧ (∀ m r, r ≠ 15 →
      (∀ k, k < 15 → list.getLsbD k = true → physIndex m r ≠ physIndex bank (BitVec.ofNat 4 k)) →
      (w = true → physIndex m r ≠ physIndex s.mode rn) → t.regIn m r = s.regIn m r) := by
  refine ⟨fun k hk hin q hq => ?_, fun hw => h.base _ (if_pos hw),
    fun m r hr hout hne => h.kept m r hr hout fun hw => hne ?_⟩
  · rw [h.loaded k hk hin q hq, wordAddress_aligned h4 hq]
  · exact (writeBack_isSome w final).symm.trans hw

/-- Settles O32: the list is loaded, the base written back, and the PC advances; one register from a device is a single
load. -/
theorem loadMultiple : Obligations.LoadMultiple := by
  unfold Obligations.LoadMultiple
  refine ⟨?memory,
    fun c p u w rn rd s hmark => singleBlock_eq p u w (s.reg rn) ▸ ldm_single_loadsDevice c p u w rn rd hmark⟩
  intro c p u sb w rn list s n bytes start bank hready h15 hspsr h4 hfit hmem hpc
  obtain ⟨rs, hlist, hadvance, -⟩ := exec_ldm_memory hready (blockStart_eq_ite p u (s.reg rn) n)
    (blockStarts_of_aligned hspsr hfit) hmem
  have hbank : transferBank (sb && !list.getLsbD 15) s = bank := by
    rw [h15, Bool.not_false, Bool.and_true]
    rfl
  rw [hbank] at hlist
  obtain ⟨hloaded, hbase, hkept⟩ := (hlist.of_regs (checkLdm_rn hready.illFormed)
    (u := { s with regs := rs, userBankLdm := sb, pc := s.pc + 4 }) rfl).of_aligned h4
  exact ⟨_, (hadvance h15).trans (advance_of_ne hpc), hloaded, hbase, hkept, rfl, rfl, rfl, rfl, rfl,
    ⟨rfl, rfl, fun _ => rfl⟩, ⟨rfl, rfl, rfl, rfl, rfl, rfl, rfl⟩⟩

/-- Settles O33: the list is loaded and the base written back, and then the last word is the target of a branch, or with `^`
of a return. -/
theorem loadMultipleWithPc : Obligations.LoadMultipleWithPc := by
  unfold Obligations.LoadMultipleWithPc
  intro c p u sb w rn list s last n bytes start hready h15 h4 hfit hmem hlast hword hreturn
  have hspsr (hsb : sb = true) : s.currentSpsr.isSome = true := by
    obtain ⟨psr, hpsr, -⟩ := hreturn hsb
    rw [hpsr]
    rfl
  obtain ⟨rs, hlist, -, hbranch⟩ := exec_ldm_memory hready (blockStart_eq_ite p u (s.reg rn) n)
    (blockStarts_of_aligned hspsr hfit) hmem
  have hexec := hbranch h15 last hlast
  rw [wordAddress_aligned h4 hlast] at hexec
  rw [h15, Bool.not_true, Bool.and_false] at hlist
  have hregs (pc cpsr : Word) (idx : Nat) :=
    ((hlist.of_regs (checkLdm_rn hready.illFormed)
      (u := { s with regs := rs, pc := pc, cpsr := cpsr, freeIdx := idx }) rfl).of_aligned h4)
  cases sb with
  | false =>
    obtain ⟨hloaded, hbase, hkept⟩ := hregs (s.wordAt last) s.cpsr s.freeIdx
    exact ⟨_, hexec.trans (branchTo_next.mpr ⟨hword rfl, rfl⟩), fun _ => rfl, fun h => (by cases h),
      ⟨fun _ => ⟨rfl, rfl⟩, fun hodd => (by cases hodd.1)⟩, hloaded, hbase, hkept, rfl, rfl, ⟨rfl, rfl, fun _ => rfl⟩,
      ⟨rfl, rfl, rfl, rfl, rfl, rfl, rfl⟩⟩
  | true =>
    obtain ⟨psr, hpsr, hmode, htarget⟩ := hreturn rfl
    obtain ⟨pc, idx, hnext, hodd, heven⟩ := exceptionReturn_of_spsr (st := { s with regs := rs }) hpsr hmode htarget
    obtain ⟨hloaded, hbase, hkept⟩ := hregs pc psr idx
    refine ⟨_, hexec.trans hnext, fun h => (by cases h), fun _ => hpsr,
      ⟨fun hne => heven ?_, fun h => hodd h.2⟩, hloaded, hbase, hkept, rfl, rfl, ⟨rfl, rfl, fun _ => rfl⟩,
      ⟨rfl, rfl, rfl, rfl, rfl, rfl, rfl⟩⟩
    by_contra hboth
    rw [not_or, Bool.not_eq_false, Bool.not_eq_false] at hboth
    exact hne ⟨rfl, hboth⟩

/-- Settles O34: the listed words are stored and the base written back; one register to a device is a single store. -/
theorem storeMultiple : Obligations.StoreMultiple := by
  unfold Obligations.StoreMultiple
  refine ⟨?memory, fun c p u w rn rd s => singleBlock_eq p u w (s.reg rn) ▸ stm_single_storesDevice c p u w rn rd s⟩
  intro c p u sb w rn list s n bytes start bank hready hspsr hs h4 hfit hram hpc
  have hram' (j : Nat) (hj : j < n) : ∃ q, remap s.sys.memmap (start + BitVec.ofNat 32 (4 * j)) = some q ∧ plainRam q
      ∧ intoPrefetch (q - q % 4) s = false := by
    obtain ⟨q, hq, hp, hpre⟩ := hram j hj
    exact ⟨q, hq, hp, by rwa [wordAddress_aligned h4 hq]⟩
  obtain ⟨t, hnext, hstored, hkept, hrest⟩ := exec_stm_ram hready hs hpc (blockStart_eq_ite p u (s.reg rn) n)
    (blockStarts_of_aligned hspsr hfit) hram'
  refine ⟨t, hnext, fun k hk hin q hq => ?_, fun a ha => hkept a fun j hj q hq => ?_, hrest⟩
  · have hword := hstored k hk hin q hq
    rwa [wordAddress_aligned h4 hq] at hword
  · rw [wordAddress_aligned h4 hq]
    exact ha j hj q hq

/-! ### Stops -/

theorem currentSpsr_eq_none {s : State} (h : s.mode = .user ∨ s.mode = .system) : s.currentSpsr = none := by
  unfold State.currentSpsr
  obtain h | h := h <;> rw [h] <;> rfl

/-- Both blocks ask for the SPSR first (R223). -/
theorem block_noSpsr {p u w : Bool} {rn : RegNum} {list : BitVec 16} {base : Word} {s : State}
    (h : s.currentSpsr = none) :
    loadBlock p u true w rn list base s = .fault .noSpsr ∧ storeBlock p u true w rn list base s = .fault .noSpsr := by
  constructor
  · rw [loadBlock, h]
    rfl
  · rw [storeBlock, h]
    rfl

/-- Then both ask whether the addresses wrap (R103). -/
theorem block_addressWrap {p u sb w : Bool} {rn : RegNum} {list : BitVec 16} {base : Word} {s : State}
    (hspsr : sb = true → s.currentSpsr.isSome = true)
    (h : blockWraps (blockStart p u base (blockCount list)) (blockCount list) = true) :
    loadBlock p u sb w rn list base s = .fault .addressWrap ∧ storeBlock p u sb w rn list base s = .fault .addressWrap := by
  have hmode : (sb && s.currentSpsr.isNone) = false := by
    cases sb
    · rfl
    · rw [Bool.true_and, Option.isNone_eq_false_iff, hspsr rfl]
  simp only [loadBlock, storeBlock, hmode, h, Bool.false_eq_true, if_false, if_true, and_self]

theorem exceptionReturn_illegalMode {x psr : Word} {st : State} (hpsr : st.currentSpsr = some psr)
    (hmode : modeOf psr = none) : exceptionReturn x st = .fault .illegalMode := by
  simp only [exceptionReturn, hpsr, hmode]

theorem exceptionReturn_misalignedPc {x psr : Word} {st : State} (hpsr : st.currentSpsr = some psr)
    (hmode : (modeOf psr).isSome = true) (hT : psr.getLsbD 5 = false) (hx : x.extractLsb' 0 2 ≠ 0) :
    exceptionReturn x st = .fault .misalignedPc := by
  obtain ⟨m, hm⟩ := Option.isSome_iff_exists.mp hmode
  have halign : alignedFor psr x = false := by
    rw [alignedFor, if_neg (by rw [hT]; decide), beq_eq_false_iff_ne]
    exact hx
  simp only [exceptionReturn, hpsr, hm, halign, hT, Bool.false_eq_true, if_false]

/-- Settles O35: each stop is a check of the block transfer before its first access, or of the branch or return after its
last. -/
theorem blockTransfersThatStop : Obligations.BlockTransfersThatStop := by
  unfold Obligations.BlockTransfersThatStop
  intro c p u sb w rn list s last n bytes start
  have hstart : blockStart p u (s.reg rn) (blockCount list) = start := blockStart_eq_ite p u (s.reg rn) n
  refine ⟨fun hready hmode => (exec_ldm hready).trans (block_noSpsr (currentSpsr_eq_none hmode)).1,
    fun hready hmode => (exec_stm hready).trans (block_noSpsr (currentSpsr_eq_none hmode)).2,
    fun hwrap hspsr => ?wraps, fun h15 h4 hfit hmem hlast => ?target⟩
  case wraps =>
    have hstops := block_addressWrap (w := w) (rn := rn) hspsr (hstart.symm ▸ decide_eq_true hwrap)
    exact ⟨fun hready => (exec_ldm hready).trans hstops.1, fun hready => (exec_stm hready).trans hstops.2⟩
  case target =>
    have target {sb : Bool} (hready : Ready (.ldm c p u sb w rn list) s)
        (hspsr : sb = true → s.currentSpsr.isSome = true) :
        ∃ rs, exec (.ldm c p u sb w rn list) s
          = if sb then exceptionReturn (s.wordAt last) { s with regs := rs }
            else branchTo (s.wordAt last) { s with regs := rs } := by
      obtain ⟨rs, -, -, hbranch⟩ := exec_ldm_memory hready hstart (blockStarts_of_aligned hspsr hfit) hmem
      have hexec := hbranch h15 last hlast
      rw [wordAddress_aligned h4 hlast] at hexec
      exact ⟨rs, hexec⟩
    refine ⟨fun hready hx => ?_, fun hready psr hpsr => ?_⟩
    · obtain ⟨rs, hexec⟩ := target hready fun h => (by cases h)
      exact hexec.trans (if_neg hx)
    · obtain ⟨rs, hexec⟩ := target hready fun _ => by rw [hpsr]; rfl
      exact ⟨fun hmode => hexec.trans (exceptionReturn_illegalMode hpsr hmode),
        fun hmode hT hx => hexec.trans (exceptionReturn_misalignedPc hpsr hmode hT hx)⟩

end Sys2Proof.Machine
end

section
/-! PROOFS. The results and the flags of the data-processing operations as the statements write them (42_data_processing.md
R252), and C and V as the carry and the signed overflow of the exact sum and difference. -/
namespace Sys2Proof.Machine

/-! ### The rows of R252 -/

theorem logicalResult_eq (r : Word) (carry : Bool) (old : Flags) :
    logicalResult r carry old = ⟨r, { n := r.getLsbD 31, z := decide (r = 0), c := carry, v := old.v }⟩ := by
  rw [logicalResult, BitVec.msb_eq_getLsbD_last]
  rfl

theorem addResult_eq (a b : Word) (cin : Bool) :
    addResult a b cin = ⟨a + b + BitVec.ofNat 32 cin.toNat,
      { n := (a + b + BitVec.ofNat 32 cin.toNat).getLsbD 31
        z := decide (a + b + BitVec.ofNat 32 cin.toNat = 0)
        c := decide (2 ^ 32 ≤ a.toNat + b.toNat + cin.toNat)
        v := decide (a.getLsbD 31 = b.getLsbD 31
          ∧ (a + b + BitVec.ofNat 32 cin.toNat).getLsbD 31 ≠ a.getLsbD 31) }⟩ := by
  have hcin : (BitVec.ofBool cin).setWidth 32 = BitVec.ofNat 32 cin.toNat := by cases cin <;> rfl
  simp only [addResult, hcin, BitVec.msb_eq_getLsbD_last, Bool.decide_and, decide_not, ne_eq]
  rfl

theorem addResult_without_carry_eq (a b : Word) :
    addResult a b false = ⟨a + b,
      { n := (a + b).getLsbD 31
        z := decide (a + b = 0)
        c := decide (2 ^ 32 ≤ a.toNat + b.toNat)
        v := decide (a.getLsbD 31 = b.getLsbD 31 ∧ (a + b).getLsbD 31 ≠ a.getLsbD 31) }⟩ := by
  have hzero : a + b + BitVec.ofNat 32 false.toNat = a + b := BitVec.add_zero _
  rw [addResult_eq, hzero]
  rfl

/-- The sum `a + NOT b + cin` is the difference less the complement of the carry. -/
theorem subResult_value_eq (a b : Word) (cin : Bool) :
    (subResult a b cin).value = a - b - (1 - BitVec.ofNat 32 cin.toNat) := by
  apply BitVec.eq_of_toNat_eq
  have hb := b.isLt
  have hcin := Bool.toNat_le cin
  have hone : (1 : Word).toNat = 1 := rfl
  rw [subResult, addResult_value_toNat]
  simp only [BitVec.toNat_not, BitVec.toNat_sub, BitVec.toNat_ofNat, hone]
  omega

theorem subResult_eq (a b : Word) (cin : Bool) :
    subResult a b cin = ⟨a - b - (1 - BitVec.ofNat 32 cin.toNat),
      { n := (a - b - (1 - BitVec.ofNat 32 cin.toNat)).getLsbD 31
        z := decide (a - b - (1 - BitVec.ofNat 32 cin.toNat) = 0)
        c := decide (b.toNat + (1 - cin.toNat) ≤ a.toNat)
        v := decide (a.getLsbD 31 ≠ b.getLsbD 31
          ∧ (a - b - (1 - BitVec.ofNat 32 cin.toNat)).getLsbD 31 ≠ a.getLsbD 31) }⟩ := by
  have hvalue := subResult_value_eq a b cin
  have hcarry : (2 ^ 32 ≤ a.toNat + (~~~b).toNat + cin.toNat) ↔ b.toNat + (1 - cin.toNat) ≤ a.toNat := by
    have hb := b.isLt
    have hcin := Bool.toNat_le cin
    rw [BitVec.toNat_not]
    omega
  have hsigns : a.getLsbD 31 = (~~~b).getLsbD 31 ↔ a.getLsbD 31 ≠ b.getLsbD 31 := by
    simp [Bool.eq_not]
  rw [subResult, addResult_eq] at hvalue ⊢
  simp only at hvalue
  simp only [hvalue, hcarry, hsigns]

theorem subResult_without_borrow_eq (a b : Word) :
    subResult a b true = ⟨a - b,
      { n := (a - b).getLsbD 31
        z := decide (a - b = 0)
        c := decide (b.toNat ≤ a.toNat)
        v := decide (a.getLsbD 31 ≠ b.getLsbD 31 ∧ (a - b).getLsbD 31 ≠ a.getLsbD 31) }⟩ := by
  have hzero : a - b - (1 - BitVec.ofNat 32 true.toNat) = a - b := BitVec.sub_zero _
  rw [subResult_eq, hzero]
  rfl

/-! ### The exact sum -/

/-- The unsigned sum with C as bit 32. -/
theorem addResult_exact (a b : Word) (cin : Bool) :
    (addResult a b cin).value.toNat + 2 ^ 32 * (addResult a b cin).flags.c.toNat = a.toNat + b.toNat + cin.toNat := by
  have hc : (addResult a b cin).flags.c = decide (2 ^ 32 ≤ a.toNat + b.toNat + cin.toNat) := rfl
  have ha := a.isLt
  have hb := b.isLt
  have hcin := Bool.toNat_le cin
  rw [addResult_value_toNat, hc]
  by_cases h : 2 ^ 32 ≤ a.toNat + b.toNat + cin.toNat
  · rw [decide_eq_true h, Bool.toNat_true]
    omega
  · rw [decide_eq_false h, Bool.toNat_false]
    omega

/-- Settles O24: V from the signs of the summands (a subtraction adds the complement), C from the exact unsigned sum. -/
theorem overflowIsSignedOverflow : Obligations.OverflowIsSignedOverflow := by
  unfold Obligations.OverflowIsSignedOverflow
  intro a b cin
  exact ⟨addResult_flags_v_iff a b cin, subResult_flags_v_iff a b cin, addResult_exact a b cin,
    subResult_flags_c_iff a b cin, subResult_value a b, subResult_value_eq a b false⟩

end Sys2Proof.Machine
end

section
/-! PROOFS. What a data-processing instruction does with its result (42_data_processing.md R250, R251, R253): a register and
the flags written, a branch, or the return from an exception. -/
namespace Sys2Proof.Machine

/-! ### The flags -/

theorem flagsOf_withFlags (psr : Word) (f : Flags) : flagsOf (withFlags psr f) = f := by
  simp only [flagsOf, withFlags, BitVec.getLsbD_append]
  simp

theorem withFlags_low (psr : Word) (f : Flags) : (withFlags psr f).extractLsb' 0 28 = psr.extractLsb' 0 28 := by
  rw [withFlags, extract_append_low _ _ 0 28 (by omega), extract_all]

@[simp] theorem setFlags_flags (st : State) (f : Flags) : (st.setFlags f).flags = f := flagsOf_withFlags st.cpsr f

@[simp] theorem setFlags_mode (st : State) (f : Flags) : (st.setFlags f).mode = st.mode := by
  rw [State.mode, setFlags_cpsr, modeOf_withFlags, State.mode]

/-- A frame that allows a change of the flags allows one before it. -/
theorem OnlyRegisters.of_setFlags {st t : State} {f : Flags} {written : List RegNum}
    (h : OnlyRegisters (st.setFlags f) t written) : OnlyRegisters st t written := by
  obtain ⟨hregs, ⟨hstatus, hspsr⟩, hmemory, hdevices, hmark⟩ := h
  refine ⟨fun m r hr hout => hregs m r hr ?_, ⟨hstatus.trans (withFlags_low st.cpsr f), hspsr⟩, hmemory, hdevices, hmark⟩
  rwa [setFlags_mode]

/-! ### The result written -/

/-- A result that goes to a register, with the flags if S (R251). -/
theorem writeAlu_register {st : State} {rd : RegNum} (hrd : rd ≠ 15) (hpc : st.pc ≠ 0xFFFFFFFC) (sb : Bool)
    (r : AluResult) :
    ∃ t, writeAlu sb rd r st = .next t ∧ t.reg rd = r.value ∧ t.flags = (if sb then r.flags else st.flags)
      ∧ t.pc = st.pc + 4 ∧ OnlyRegisters st t [rd] ∧ t.freeIdx = st.freeIdx := by
  rw [writeAlu, if_neg hrd]
  cases sb with
  | false =>
    obtain ⟨t, hnext, hchange, hval, hpc', hkept⟩ := advance_setReg hrd hpc r.value
    exact ⟨t, hnext, hval, flags_of_cpsr hchange.cpsr, hpc', hchange.onlyRegisters hkept, hchange.freeIdx⟩
  | true =>
    obtain ⟨t, hnext, hchange, hval, hpc', hkept⟩ := advance_setReg (st := st.setFlags r.flags) hrd hpc r.value
    exact ⟨t, hnext, hval, (flags_of_cpsr hchange.cpsr).trans (setFlags_flags st r.flags), hpc',
      (hchange.onlyRegisters hkept).of_setFlags, hchange.freeIdx⟩

theorem writeAlu_branch (r : AluResult) (st : State) : writeAlu false 15 r st = branchTo r.value st := rfl

theorem writeAlu_return (r : AluResult) (st : State) : writeAlu true 15 r st = exceptionReturn r.value st := rfl

theorem exceptionReturn_aligned {x psr : Word} {st : State} (hpsr : st.currentSpsr = some psr)
    (hmode : (modeOf psr).isSome = true) (hx : alignedFor psr x = true) :
    exceptionReturn x st = .next { st with cpsr := psr, pc := x } := by
  obtain ⟨m, hm⟩ := Option.isSome_iff_exists.mp hmode
  simp only [exceptionReturn, hpsr, hm, hx, if_true]

theorem exceptionReturn_noSpsr {x : Word} {st : State} (h : st.currentSpsr = none) :
    exceptionReturn x st = .fault .noSpsr := by
  simp only [exceptionReturn, h]

/-- Each clause of `Computes` is one way of writing the result. -/
theorem computes_of_writeAlu {i : Instr} {st : State} {sb : Bool} {rd : RegNum} {r : AluResult}
    (h : Ready i st → exec i st = writeAlu sb rd r st) : Computes i st sb rd r.value r.flags := by
  intro hready
  rw [h hready]
  refine ⟨fun hrd hpc => writeAlu_register hrd hpc sb r, ?branch, ?misaligned, ?restore, ?illegal, ?misalignedReturn,
    ?thumb, ?noSpsr⟩
  all_goals rintro rfl rfl
  case branch => exact fun hx => (writeAlu_branch r st).trans (branchTo_next.mpr ⟨hx, rfl⟩)
  case misaligned => exact fun hx => (writeAlu_branch r st).trans (if_neg hx)
  all_goals rw [writeAlu_return]
  case restore => exact fun psr hpsr hmode hx => exceptionReturn_aligned hpsr hmode hx
  case illegal => exact fun psr hpsr hmode => exceptionReturn_illegalMode hpsr hmode
  case misalignedReturn => exact fun psr hpsr hmode hT hx => exceptionReturn_misalignedPc hpsr hmode hT hx
  case thumb =>
    intro psr hpsr hmode hT hx
    obtain ⟨pc, idx, hnext, hodd, -⟩ := exceptionReturn_of_spsr hpsr hmode (.inl hT)
    exact ⟨pc, idx, hnext, hodd ⟨hT, hx⟩⟩
  case noSpsr => exact fun hpsr => exceptionReturn_noSpsr hpsr

/-! ### The instructions -/

/-- An instruction that runs the ALU operation `f` computes what `f` gives. -/
theorem computes_of_dataProcess {i : Instr} {c : Cond} {st : State} {act : State → Result} {f : AluOp} {sb : Bool}
    {rn rd : RegNum} {o : Shifted} {v : Word} {fl : Flags} (hc : i.cond? = some c)
    (he : ∀ s, exec i s = conditional c i s act) (ha : act st = dataProcess f sb rn rd o st)
    (hf : f (st.readReg rn) o st.flags = ⟨v, fl⟩) : Computes i st sb rd v fl :=
  computes_of_writeAlu (r := ⟨v, fl⟩) fun hready => by
    rw [exec_of_ready hready hc he, ha, dataProcess, hf]

/-- An instruction that compares by the ALU operation `f` sets the flags `f` gives, and nothing else. -/
theorem compares_of_compare {i : Instr} {c : Cond} {st : State} {act : State → Result} {f : AluOp} {rn : RegNum}
    {o : Shifted} {v : Word} {fl : Flags} (hc : i.cond? = some c) (he : ∀ s, exec i s = conditional c i s act)
    (ha : act st = compare f rn o st) (hf : f (st.readReg rn) o st.flags = ⟨v, fl⟩) : Compares i st fl := by
  intro hready hpc
  have hexec : exec i st = advance (st.setFlags fl) := by rw [exec_of_ready hready hc he, ha, compare, hf]
  have hchange := setPc_regsChange (st.setFlags fl) (st.pc + 4)
  have hkept := (registersKept_of_regs (s := st.setFlags fl) rfl []).setPc (st.pc + 4)
  exact ⟨_, hexec.trans (advance_of_ne hpc), (flags_of_cpsr hchange.cpsr).trans (setFlags_flags st fl), rfl,
    (hchange.onlyRegisters hkept).of_setFlags, hchange.freeIdx⟩

/-- Settles O19: every form is the common execution of a logical operation. -/
theorem logicalOperations : Obligations.LogicalOperations := by
  unfold Obligations.LogicalOperations
  intro c sb rn rd imm si sr s andV andF eorV eorF orrV orrF bicV bicF
  refine ⟨?andImm, ?andShiftImm, ?andShiftReg, ?eorImm, ?eorShiftImm, ?eorShiftReg, ?orrImm, ?orrShiftImm,
    ?orrShiftReg, ?bicImm, ?bicShiftImm, ?bicShiftReg⟩
  all_goals exact computes_of_dataProcess rfl (fun _ => rfl) rfl (logicalResult_eq _ _ _)

/-- Settles O20: the two moves are logical operations of operand 2 alone. -/
theorem moveOperations : Obligations.MoveOperations := by
  unfold Obligations.MoveOperations
  intro c sb rd imm si sr s movV movF mvnV mvnF
  refine ⟨?movImm, ?movShiftImm, ?movShiftReg, ?mvnImm, ?mvnShiftImm, ?mvnShiftReg⟩
  all_goals exact computes_of_dataProcess rfl (fun _ => rfl) rfl (logicalResult_eq _ _ _)

/-- Settles O21: ADD adds without a carry-in, ADC with the C flag. -/
theorem additionOperations : Obligations.AdditionOperations := by
  unfold Obligations.AdditionOperations
  intro c sb rn rd imm si sr s addV addF adcV adcF
  refine ⟨?addImm, ?addShiftImm, ?addShiftReg, ?adcImm, ?adcShiftImm, ?adcShiftReg⟩
  case addImm | addShiftImm | addShiftReg =>
    exact computes_of_dataProcess rfl (fun _ => rfl) rfl (addResult_without_carry_eq _ _)
  case adcImm | adcShiftImm | adcShiftReg =>
    exact computes_of_dataProcess rfl (fun _ => rfl) rfl (addResult_eq _ _ _)

/-- Settles O22: SUB and RSB subtract without a borrow, SBC and RSC with the complement of the C flag. -/
theorem subtractionOperations : Obligations.SubtractionOperations := by
  unfold Obligations.SubtractionOperations
  intro c sb rn rd imm si sr s subV subF rsbV rsbF sbcV sbcF rscV rscF
  refine ⟨?subImm, ?subShiftImm, ?subShiftReg, ?rsbImm, ?rsbShiftImm, ?rsbShiftReg, ?sbcImm, ?sbcShiftImm,
    ?sbcShiftReg, ?rscImm, ?rscShiftImm, ?rscShiftReg⟩
  case subImm | subShiftImm | subShiftReg | rsbImm | rsbShiftImm | rsbShiftReg =>
    exact computes_of_dataProcess rfl (fun _ => rfl) rfl (subResult_without_borrow_eq _ _)
  case sbcImm | sbcShiftImm | sbcShiftReg | rscImm | rscShiftImm | rscShiftReg =>
    exact computes_of_dataProcess rfl (fun _ => rfl) rfl (subResult_eq _ _ _)

/-- Settles O23: TST and TEQ are logical, CMP subtracts, CMN adds. -/
theorem compareOperations : Obligations.CompareOperations := by
  unfold Obligations.CompareOperations
  intro c rn imm si sr s tstF teqF cmpF cmnF
  refine ⟨?tstImm, ?tstShiftImm, ?tstShiftReg, ?teqImm, ?teqShiftImm, ?teqShiftReg, ?cmpImm, ?cmpShiftImm,
    ?cmpShiftReg, ?cmnImm, ?cmnShiftImm, ?cmnShiftReg⟩
  case tstImm | tstShiftImm | tstShiftReg | teqImm | teqShiftImm | teqShiftReg =>
    exact compares_of_compare rfl (fun _ => rfl) rfl (logicalResult_eq _ _ _)
  case cmpImm | cmpShiftImm | cmpShiftReg =>
    exact compares_of_compare rfl (fun _ => rfl) rfl (subResult_without_borrow_eq _ _)
  case cmnImm | cmnShiftImm | cmnShiftReg =>
    exact compares_of_compare rfl (fun _ => rfl) rfl (addResult_without_carry_eq _ _)

end Sys2Proof.Machine
end

section
/-! PROOFS. The sample words of the spec: each is the encoding of its instruction, so it decodes to it. -/
namespace Sys2Proof.Machine

theorem decodeTableWord_of_encodeWord {i : Instr} {n : Nat} (hi : i.wellFormed = true)
    (h : encodeWord i = some (BitVec.ofNat 32 n)) : decodeTableWord 32 n = some i := by
  have hword : tableWord 32 n = BitVec.ofNat 32 n := BitVec.eq_of_toNat_eq (by simp [tableWord])
  have hbytes := decodeBytes_wordBytes (BitVec.ofNat 32 n) []
  rw [List.append_nil, decodeWord_of_encodeWord hi h] at hbytes
  rw [decodeTableWord, hword, hbytes]

/-- Settles O11: the instructions are well formed and the words are their encodings. -/
theorem sampleWordsDecode : Obligations.SampleWordsDecode := by
  unfold Obligations.SampleWordsDecode
  refine ⟨?mov, ?subs, ?ldr, ?ldrh, ?stmfd, ?mul, ?bl, ?mrs, ?swi⟩
  all_goals exact decodeTableWord_of_encodeWord (by decide) (by decide)

end Sys2Proof.Machine
end

section
/-! PROOFS. The multiplies (43_multiply.md R291 to R298): the products as exact numbers, and what a multiply writes. -/
namespace Sys2Proof.Machine

/-! ### Operand restrictions -/

theorem checkMultiply_used {rd rm : RegNum} {used : List RegNum} (h : checkMultiply rd rm used = none) :
    ∀ r ∈ used, r ≠ 15 := by
  have hpc := firstFailing_none h (why := .multiplyPc) (List.mem_cons_self ..)
  rintro r hr rfl
  rw [List.contains_iff_mem.mpr hr] at hpc
  cases hpc

theorem checkMultiplyLong_operands {rdHi rdLo rs rm : RegNum} (h : checkMultiplyLong rdHi rdLo rs rm = none) :
    rs ≠ 15 ∧ rm ≠ 15 := by
  have hpc := firstFailing_none h (why := .multiplyPc) (List.mem_cons_self ..)
  constructor <;> rintro rfl <;> simp at hpc

theorem checkMultiplyLong_dest_ne {rdHi rdLo rs rm : RegNum} (h : checkMultiplyLong rdHi rdLo rs rm = none) :
    rdLo ≠ rdHi := by
  have hsame := firstFailing_none h (bad := rdHi == rdLo || rdHi == rm || rdLo == rm) (why := .multiplySameRegister)
    (by simp)
  rintro rfl
  simp at hsame

/-! ### The products as numbers -/

theorem productUnsigned_toNat (a b : Word) : (productUnsigned a b).toNat = a.toNat * b.toNat := by
  have hbound : a.toNat * b.toNat < 2 ^ 32 * 2 ^ 32 := Nat.mul_lt_mul'' a.isLt b.isLt
  have ha : (a.setWidth 64).toNat = a.toNat := BitVec.toNat_setWidth_of_le (by omega)
  have hb : (b.setWidth 64).toNat = b.toNat := BitVec.toNat_setWidth_of_le (by omega)
  rw [productUnsigned, BitVec.toNat_mul_of_lt (by rw [ha, hb]; exact hbound), ha, hb]

theorem productSigned_eq_ofInt (a b : Word) : productSigned a b = BitVec.ofInt 64 (a.toInt * b.toInt) := by
  have ha : (a.signExtend 64).toInt = a.toInt := BitVec.toInt_signExtend_of_le (by omega)
  have hb : (b.signExtend 64).toInt = b.toInt := BitVec.toInt_signExtend_of_le (by omega)
  rw [productSigned, ← ha, ← hb, BitVec.ofInt_mul, BitVec.ofInt_toInt, BitVec.ofInt_toInt]

/-- The product of two signed words fits in 64 bits. -/
theorem productSigned_toInt (a b : Word) : (productSigned a b).toInt = a.toInt * b.toInt := by
  have hle : a.toInt * b.toInt ≤ 2 ^ 62 := BitVec.toInt_mul_toInt_le
  have hge : -2 ^ 62 ≤ a.toInt * b.toInt := BitVec.le_toInt_mul_toInt
  rw [productSigned_eq_ofInt, BitVec.toInt_ofInt]
  exact Int.bmod_eq_of_le (by omega) (by omega)

/-! ### The flags of a product -/

theorem multiplyFlags_n (r : Word) (c v : Bool) : (multiplyFlags r c v).n = r.getLsbD 31 := BitVec.msb_eq_getLsbD_last r

theorem multiplyFlags_z (r : Word) (c v : Bool) : (multiplyFlags r c v).z = decide (r = 0) := rfl

theorem append_eq_zero_iff (hi lo : Word) : hi ++ lo = 0#64 ↔ hi = 0 ∧ lo = 0 := by
  refine ⟨fun h => ⟨?high, ?low⟩, ?both⟩
  case high => rw [← extract_all hi, ← extract_append_high hi lo 32 32 (by omega), h]; rfl
  case low => rw [← extract_all lo, ← extract_append_low hi lo 0 32 (by omega), h]; rfl
  case both => rintro ⟨rfl, rfl⟩; rfl

theorem multiplyFlags_append_n (hi lo : Word) (c v : Bool) : (multiplyFlags (hi ++ lo) c v).n = hi.getLsbD 31 := by
  rw [multiplyFlags, BitVec.msb_append, if_neg (by omega), BitVec.msb_eq_getLsbD_last]

theorem multiplyFlags_append_z (hi lo : Word) (c v : Bool) :
    (multiplyFlags (hi ++ lo) c v).z = decide (hi = 0 ∧ lo = 0) :=
  decide_eq_decide.mpr (append_eq_zero_iff hi lo)

/-! ### The registers written -/

/-- `st` with the flags of a multiply: `f` and a free value drawn for the open ones if S, else unchanged (R292). -/
def State.afterMultiplyFlags (st : State) (sb : Bool) (f : Flags) : State := if sb then (st.setFlags f).drawn else st

theorem afterMultiplyFlags_pc (st : State) (sb : Bool) (f : Flags) : (st.afterMultiplyFlags sb f).pc = st.pc := by
  cases sb <;> rfl

/-- A change of registers after the flags of a multiply: which flags there are, and the frame. -/
theorem RegsChange.of_multiplyFlags {st t : State} {sb : Bool} {f : Flags} {written : List RegNum}
    (h : RegsChange (st.afterMultiplyFlags sb f) t) (hkept : RegistersKept (st.afterMultiplyFlags sb f) t written) :
    (sb = true → t.flags = f) ∧ (sb = false → t.flags = st.flags ∧ t.freeIdx = st.freeIdx)
      ∧ OnlyRegisters st t written := by
  have hframe := h.onlyRegisters hkept
  cases sb with
  | false => exact ⟨fun hs => (nomatch hs), fun _ => ⟨flags_of_cpsr h.cpsr, h.freeIdx⟩, hframe⟩
  | true =>
    have hflags : t.flags = f := (flags_of_cpsr h.cpsr).trans (setFlags_flags st f)
    exact ⟨fun _ => hflags, fun hs => (nomatch hs), OnlyRegisters.of_setFlags (f := f) hframe⟩

theorem writeProduct_eq (sb : Bool) (rd : RegNum) (r : Word) (st : State) :
    writeProduct sb rd r st
      = advance ((st.afterMultiplyFlags sb (multiplyFlags r (st.free.getLsbD 0) st.flags.v)).setReg rd r) := rfl

theorem writeProductLong_append (sb : Bool) (rdHi rdLo : RegNum) (hi lo : Word) (st : State) :
    writeProductLong sb rdHi rdLo (hi ++ lo) st
      = advance (((st.afterMultiplyFlags sb
          (multiplyFlags (hi ++ lo) (st.free.getLsbD 0) (st.free.getLsbD 1))).setReg rdLo lo).setReg rdHi hi) := by
  have hlow : (hi ++ lo).extractLsb' 0 32 = lo := (extract_append_low hi lo 0 32 (by omega)).trans (extract_all lo)
  have hhigh : (hi ++ lo).extractLsb' 32 32 = hi := (extract_append_high hi lo 32 32 (by omega)).trans (extract_all hi)
  rw [writeProductLong, hlow, hhigh]
  rfl

/-- The end of a long multiply: both destinations written, and the next PC. -/
theorem advance_setReg_setReg {st : State} {rdHi rdLo : RegNum} (hHi : rdHi ≠ 15) (hLo : rdLo ≠ 15) (hne : rdLo ≠ rdHi)
    (hpc : st.pc ≠ 0xFFFFFFFC) (hi lo : Word) :
    ∃ t, advance ((st.setReg rdLo lo).setReg rdHi hi) = .next t ∧ RegsChange st t ∧ t.reg rdHi = hi ∧ t.reg rdLo = lo
      ∧ t.pc = st.pc + 4 ∧ RegistersKept st t [rdHi, rdLo] := by
  have hpc' : ((st.setReg rdLo lo).setReg rdHi hi).pc = st.pc :=
    (setReg_pc _ rdHi hi hHi).trans (setReg_pc st rdLo lo hLo)
  have hchange := (setReg_regsChange st rdLo lo).trans (setReg_regsChange _ rdHi hi)
  have hkept := ((registersKept_of_regs (s := st) rfl []).setReg rfl hLo lo).setReg rfl hHi hi
  refine ⟨_, ?next, hchange.trans (setPc_regsChange _ (st.pc + 4)), ?high, ?low, rfl, hkept.setPc _⟩
  case next => rw [advance_of_ne (hpc'.symm ▸ hpc), hpc']
  case high => rw [reg_setPc _ _ hHi, reg_setReg_same]
  case low => rw [reg_setPc _ _ hLo, reg_setReg_other _ _ _ _ hne, reg_setReg_same]

/-- A 32-bit product written (R292 to R294). -/
theorem writeProduct_next {st : State} {rd : RegNum} (hrd : rd ≠ 15) (hpc : st.pc ≠ 0xFFFFFFFC) (sb : Bool) (r : Word) :
    ∃ t, writeProduct sb rd r st = .next t ∧ t.reg rd = r
      ∧ (sb = true → t.flags.n = (t.reg rd).getLsbD 31 ∧ t.flags.z = decide (t.reg rd = 0) ∧ t.flags.v = st.flags.v)
      ∧ (sb = false → t.flags = st.flags ∧ t.freeIdx = st.freeIdx)
      ∧ t.pc = st.pc + 4 ∧ OnlyRegisters st t [rd] := by
  obtain ⟨t, hnext, hchange, hval, hpc', hkept⟩ :=
    advance_setReg hrd ((afterMultiplyFlags_pc st sb _).symm ▸ hpc) r
  obtain ⟨hset, hclear, hframe⟩ := hchange.of_multiplyFlags hkept
  refine ⟨t, (writeProduct_eq sb rd r st).trans hnext, hval, fun hs => ?_, hclear,
    hpc'.trans (by rw [afterMultiplyFlags_pc]), hframe⟩
  rw [hset hs, hval]
  exact ⟨multiplyFlags_n r _ _, multiplyFlags_z r _ _, rfl⟩

/-- A 64-bit product written (R292, R295 to R298). -/
theorem writeProductLong_next {st : State} {rdHi rdLo : RegNum} (hHi : rdHi ≠ 15) (hLo : rdLo ≠ 15)
    (hne : rdLo ≠ rdHi) (hpc : st.pc ≠ 0xFFFFFFFC) (sb : Bool) (r : BitVec 64) :
    ∃ t, writeProductLong sb rdHi rdLo r st = .next t ∧ t.reg rdHi ++ t.reg rdLo = r
      ∧ (sb = true → t.flags.n = (t.reg rdHi).getLsbD 31 ∧ t.flags.z = decide (t.reg rdHi = 0 ∧ t.reg rdLo = 0))
      ∧ (sb = false → t.flags = st.flags ∧ t.freeIdx = st.freeIdx)
      ∧ t.pc = st.pc + 4 ∧ OnlyRegisters st t [rdHi, rdLo] := by
  obtain ⟨hi, lo, rfl⟩ : ∃ hi lo : Word, r = hi ++ lo := 
    ⟨r.extractLsb' 32 32, r.extractLsb' 0 32, (BitVec.extractLsb'_append_extractLsb' (w := 32) (len := 32)).symm⟩
  obtain ⟨t, hnext, hchange, hhigh, hlow, hpc', hkept⟩ :=
    advance_setReg_setReg hHi hLo hne ((afterMultiplyFlags_pc st sb _).symm ▸ hpc) hi lo
  obtain ⟨hset, hclear, hframe⟩ := hchange.of_multiplyFlags hkept
  refine ⟨t, (writeProductLong_append sb rdHi rdLo hi lo st).trans hnext, by rw [hhigh, hlow], fun hs => ?_, hclear,
    hpc'.trans (by rw [afterMultiplyFlags_pc]), hframe⟩
  rw [hset hs, hhigh, hlow]
  exact ⟨multiplyFlags_append_n hi lo _ _, multiplyFlags_append_z hi lo _ _⟩

/-! ### The instructions -/

/-- Settles O25: the operands are not R15, so they read as the registers, and the arithmetic is that of words. -/
theorem multiplyShort : Obligations.MultiplyShort := by
  unfold Obligations.MultiplyShort
  intro c sb rd rn rs rm s hpc
  refine ⟨fun hready => ?mul, fun hready => ?mla⟩
  all_goals
    have hused := checkMultiply_used hready.illFormed
    simp only [List.forall_mem_cons] at hused
    rw [exec_of_ready hready rfl fun _ => rfl]
  case mul =>
    obtain ⟨hrd, hrs, hrm, -⟩ := hused
    rw [readReg_of_ne s hrm, readReg_of_ne s hrs]
    obtain ⟨t, hnext, hval, hrest⟩ := writeProduct_next hrd hpc sb (s.reg rm * s.reg rs)
    exact ⟨t, hnext, by rw [hval, BitVec.toNat_mul], hrest⟩
  case mla =>
    obtain ⟨hrd, hrn, hrs, hrm, -⟩ := hused
    rw [readReg_of_ne s hrm, readReg_of_ne s hrs, readReg_of_ne s hrn]
    obtain ⟨t, hnext, hval, hrest⟩ := writeProduct_next hrd hpc sb (s.reg rm * s.reg rs + s.reg rn)
    exact ⟨t, hnext, by rw [hval, BitVec.toNat_add, BitVec.toNat_mul, Nat.mod_add_mod], hrest⟩

/-- A long multiply writes `f` of its operands and the accumulator, all read from the registers before (R291). -/
theorem multiplyLong_of_ready {i : Instr} {c : Cond} {st : State} {act : State → Result} {sb : Bool}
    {rdHi rdLo rs rm : RegNum} (f : Word → Word → BitVec 64 → BitVec 64) (h : Ready i st) (hc : i.cond? = some c)
    (hi : i.illFormed = checkMultiplyLong rdHi rdLo rs rm) (he : ∀ s, exec i s = conditional c i s act)
    (ha : act st
      = writeProductLong sb rdHi rdLo (f (st.readReg rm) (st.readReg rs) (accumulator rdHi rdLo st)) st)
    (hpc : st.pc ≠ 0xFFFFFFFC) :
    ∃ t, exec i st = .next t ∧ t.reg rdHi ++ t.reg rdLo = f (st.reg rm) (st.reg rs) (st.reg rdHi ++ st.reg rdLo)
      ∧ (sb = true → t.flags.n = (t.reg rdHi).getLsbD 31 ∧ t.flags.z = decide (t.reg rdHi = 0 ∧ t.reg rdLo = 0))
      ∧ (sb = false → t.flags = st.flags ∧ t.freeIdx = st.freeIdx)
      ∧ t.pc = st.pc + 4 ∧ OnlyRegisters st t [rdHi, rdLo] := by
  have hcheck := hi.symm.trans h.illFormed
  obtain ⟨hHi, hLo⟩ := checkMultiplyLong_pc hcheck
  obtain ⟨hrs, hrm⟩ := checkMultiplyLong_operands hcheck
  rw [exec_of_ready h hc he, ha, accumulator, readReg_of_ne st hrm, readReg_of_ne st hrs, readReg_of_ne st hHi,
    readReg_of_ne st hLo]
  exact writeProductLong_next hHi hLo (checkMultiplyLong_dest_ne hcheck) hpc sb _

/-- Settles O26: the four forms write one of the two products, plus the accumulator or not. -/
theorem multiplyLong : Obligations.MultiplyLong := by
  unfold Obligations.MultiplyLong
  intro c sb hi lo rs rm s hpc
  refine ⟨fun hready => ?umull, fun hready => ?umlal, fun hready => ?smull, fun hready => ?smlal⟩
  case umull =>
    obtain ⟨t, hnext, hval, hrest⟩ :=
      multiplyLong_of_ready (fun a b _ => productUnsigned a b) hready rfl rfl (fun _ => rfl) rfl hpc
    exact ⟨t, hnext, by rw [hval, productUnsigned_toNat], hrest⟩
  case umlal =>
    obtain ⟨t, hnext, hval, hrest⟩ :=
      multiplyLong_of_ready (fun a b acc => productUnsigned a b + acc) hready rfl rfl (fun _ => rfl) rfl hpc
    exact ⟨t, hnext, by rw [hval, BitVec.toNat_add, productUnsigned_toNat], hrest⟩
  case smull =>
    obtain ⟨t, hnext, hval, hrest⟩ :=
      multiplyLong_of_ready (fun a b _ => productSigned a b) hready rfl rfl (fun _ => rfl) rfl hpc
    exact ⟨t, hnext, by rw [hval, productSigned_toInt], hrest⟩
  case smlal =>
    obtain ⟨t, hnext, hval, hrest⟩ :=
      multiplyLong_of_ready (fun a b acc => productSigned a b + acc) hready rfl rfl (fun _ => rfl) rfl hpc
    exact ⟨t, hnext, by rw [hval, productSigned_eq_ofInt, BitVec.ofInt_add, BitVec.ofInt_toInt], hrest⟩

end Sys2Proof.Machine
end

section
/-! PROOFS. The branches (44_branch.md R311 to R316): the target as an exact number, the T bit of the CPSR as bit 5, what a
branch with exchange does for each pair of low bits, and the link in R14 with its frame. -/
namespace Sys2Proof.Machine

/-! ### Targets -/

theorem signExtend_shiftLeft_two (off : BitVec 24) : off.signExtend 32 <<< 2 = BitVec.ofInt 32 (4 * off.toInt) := by
  rw [BitVec.shiftLeft_eq_mul_twoPow, BitVec.signExtend, BitVec.mul_comm, BitVec.ofInt_mul]
  rfl

/-- The target with the literal 8 as a word; the model writes it as the cast of a number. -/
theorem branchTarget_eq_add (a : Word) (off : BitVec 24) :
    branchTarget a off = a + (8#32 : Word) + (off.signExtend 32 <<< (2 : Nat) : Word) := rfl

/-- The target of B and BL as a number modulo 2^32 (R311). -/
theorem branchTarget_eq_ofInt (a : Word) (off : BitVec 24) :
    branchTarget a off = BitVec.ofInt 32 ((a.toNat : Int) + 8 + 4 * off.toInt) := by
  rw [branchTarget_eq_add, signExtend_shiftLeft_two, BitVec.ofInt_add, BitVec.ofInt_add, BitVec.ofInt_natCast,
    BitVec.ofNat_toNat, BitVec.setWidth_eq]
  rfl

/-- From a word-aligned branch the target is word aligned, so B and BL never stop (R311). -/
theorem branchTarget_aligned {a : Word} (ha : a.extractLsb' 0 2 = 0) (off : BitVec 24) :
    (branchTarget a off).extractLsb' 0 2 = 0 := by
  rw [extractLsb_two_eq_zero_iff] at ha ⊢
  rw [branchTarget_eq_add, BitVec.toNat_add, BitVec.toNat_add, BitVec.toNat_ofNat, BitVec.toNat_shiftLeft,
    Nat.shiftLeft_eq]
  omega

/-- The H bit adds 2 to the target of BLX (R315). -/
theorem blxImm_target_eq_ofInt (a : Word) (h : Bool) (off : BitVec 24) :
    branchTarget a off + ((BitVec.ofBool h).setWidth 32 <<< 1)
      = BitVec.ofInt 32 ((a.toNat : Int) + 8 + 4 * off.toInt + 2 * (h.toNat : Int)) := by
  have hbit : (BitVec.ofBool h).setWidth 32 <<< 1 = BitVec.ofInt 32 (2 * (h.toNat : Int)) := by cases h <;> rfl
  rw [branchTarget_eq_ofInt, hbit, ← BitVec.ofInt_add]

/-- An odd word without its bit 0 is its predecessor. -/
theorem clearBit_eq_sub_one {v : Word} (h : v.getLsbD 0 = true) : v &&& 0xFFFFFFFE = v - 1 := by
  have hsplit : (v &&& 0xFFFFFFFE) + 1 = v := by
    rw [BitVec.add_eq_or_of_and_eq_zero _ _ (by rw [BitVec.and_assoc]; exact BitVec.and_zero)]
    rw [show (0xFFFFFFFE : Word) = ~~~BitVec.twoPow 32 0 from rfl, show (1 : Word) = BitVec.twoPow 32 0 from rfl]
    apply BitVec.eq_of_getLsbD_eq
    intro i hi
    rw [BitVec.getLsbD_or, BitVec.getLsbD_and, BitVec.getLsbD_not, BitVec.getLsbD_twoPow]
    by_cases h0 : i = 0
    · subst h0; simp [h]
    · simp [hi, Ne.symm h0]
  exact eq_sub_of_add_eq hsplit

/-! ### The T bit of the CPSR -/

theorem withThumb_getLsbD (psr : Word) (b : Bool) {i : Nat} (hi : i < 32) :
    (withThumb psr b).getLsbD i = if i = 5 then b else psr.getLsbD i := by
  split
  · next h => rw [h, withThumb_thumb]
  · next h =>
    unfold withThumb
    obtain hlow | hhigh : i < 5 ∨ 6 ≤ i := by omega
    · rw [getLsbD_append_low _ _ _ hlow, BitVec.getLsbD_extractLsb']
      simp [hlow]
    · rw [getLsbD_append_high _ _ _ (by omega), getLsbD_append_high _ _ _ (by omega), BitVec.getLsbD_extractLsb',
        decide_eq_true (by omega), Bool.true_and, show 6 + (i - 5 - 1) = i by omega]

theorem withThumb_true (psr : Word) : withThumb psr true = psr ||| 0x20 := by
  apply BitVec.eq_of_getLsbD_eq
  intro i hi
  rw [withThumb_getLsbD psr true hi, BitVec.getLsbD_or, show (0x20 : Word) = BitVec.twoPow 32 5 from rfl,
    BitVec.getLsbD_twoPow]
  by_cases h5 : i = 5
  · simp [h5]
  · simp [h5, Ne.symm h5]

theorem withThumb_false (psr : Word) : withThumb psr false = psr &&& 0xFFFFFFDF := by
  apply BitVec.eq_of_getLsbD_eq
  intro i hi
  rw [withThumb_getLsbD psr false hi, BitVec.getLsbD_and, show (0xFFFFFFDF : Word) = ~~~BitVec.twoPow 32 5 from rfl,
    BitVec.getLsbD_not, BitVec.getLsbD_twoPow]
  by_cases h5 : i = 5
  · simp [h5]
  · simp [h5, Ne.symm h5, hi]

/-! ### The low bits of the target (R314) -/

theorem branchExchange_thumb {v : Word} (h : v.getLsbD 0 = true) (st : State) :
    branchExchange v st = .next { st with cpsr := st.cpsr ||| 0x20, pc := v - 1 } := by
  rw [branchExchange, if_pos h, withThumb_true, clearBit_eq_sub_one h]

theorem extractLsb_two_getLsbD {v : Word} {low : BitVec 2} (h : v.extractLsb' 0 2 = low) {i : Nat} (hi : i < 2) :
    v.getLsbD i = low.getLsbD i := by
  rw [← h, BitVec.getLsbD_extractLsb', decide_eq_true hi, Bool.true_and, Nat.zero_add]

theorem branchExchange_arm {v : Word} (h : v.extractLsb' 0 2 = 0) (st : State) :
    branchExchange v st = .next { st with cpsr := st.cpsr &&& 0xFFFFFFDF, pc := v } := by
  have h0 : v.getLsbD 0 = false := extractLsb_two_getLsbD h (by omega)
  have h1 : v.getLsbD 1 = false := extractLsb_two_getLsbD h (by omega)
  rw [branchExchange, h0, h1, withThumb_false]
  rfl

theorem branchExchange_stops {v : Word} (h : v.extractLsb' 0 2 = 2) (st : State) :
    branchExchange v st = .fault .misalignedPc := by
  have h0 : v.getLsbD 0 = false := extractLsb_two_getLsbD h (by omega)
  have h1 : v.getLsbD 1 = true := extractLsb_two_getLsbD h (by omega)
  rw [branchExchange, h0, h1]
  rfl

/-! ### The link -/

theorem linkReturn_registersKept (s : State) : RegistersKept s (linkReturn s) [14] :=
  (registersKept_of_regs (s := s) rfl []).setReg rfl (by decide) _

/-- After a link: R14 has the return address, and only it, the PC and the CPSR can differ from before. -/
def Linked (s t : State) : Prop :=
  t.regIn s.mode 14 = s.pc + 4 ∧ RegistersKept s t [14] ∧ t.spsr = s.spsr ∧ MemoryKept s t ∧ DevicesKept s t
    ∧ t.freeIdx = s.freeIdx ∧ t.userBankLdm = s.userBankLdm

/-- Whatever the branch puts in the CPSR and the PC, the link and its frame stand (R313, R315, R316). -/
theorem linkReturn_linked (s : State) (psr v : Word) : Linked s { linkReturn s with cpsr := psr, pc := v } := by
  have hlink : (linkReturn s).regIn s.mode 14 = s.pc + 4 := regIn_setRegIn_same s s.mode 14 _
  have hkept : RegistersKept s { linkReturn s with cpsr := psr, pc := v } [14] := (linkReturn_registersKept s).setPc v
  exact ⟨hlink, hkept, rfl, ⟨rfl, rfl, fun _ => rfl⟩, ⟨rfl, rfl, rfl, rfl, rfl, rfl, rfl⟩, rfl, rfl⟩

/-! ### The instructions -/

theorem exec_b (c : Cond) (off : BitVec 24) (s : State) :
    exec (.b c off) s = conditional c (.b c off) s fun st => branchTo (branchTarget st.pc off) st := rfl

theorem exec_bl (c : Cond) (off : BitVec 24) (s : State) :
    exec (.bl c off) s = conditional c (.bl c off) s fun st => branchTo (branchTarget st.pc off) (linkReturn st) := rfl

theorem exec_bx (c : Cond) (rm : RegNum) (s : State) :
    exec (.bx c rm) s = conditional c (.bx c rm) s fun st => branchExchange (st.readReg rm) st := rfl

theorem exec_blxReg (c : Cond) (rm : RegNum) (s : State) :
    exec (.blxReg c rm) s
      = conditional c (.blxReg c rm) s fun st => branchExchange (st.readReg rm) (linkReturn st) := rfl

/-- Settles O38: the target is aligned, so both branches complete, and BL links first. -/
theorem branchAndLink : Obligations.BranchAndLink := by
  unfold Obligations.BranchAndLink
  intro c off s hpc hc
  have hgo (st : State) :
      branchTo (branchTarget s.pc off) st
        = .next { st with pc := BitVec.ofInt 32 ((s.pc.toNat : Int) + 8 + 4 * off.toInt) } := by
    rw [branchTo, if_pos (branchTarget_aligned hpc off), branchTarget_eq_ofInt]
  have hb : exec (.b c off) s = branchTo (branchTarget s.pc off) s :=
    (exec_b c off s).trans (conditional_run hc rfl)
  have hbl : exec (.bl c off) s = branchTo (branchTarget s.pc off) (linkReturn s) :=
    (exec_bl c off s).trans (conditional_run hc rfl)
  obtain ⟨hlink, hkept, hspsr, hmem, hdev, hfree, hmark⟩ := linkReturn_linked s s.cpsr
    (BitVec.ofInt 32 ((s.pc.toNat : Int) + 8 + 4 * off.toInt))
  exact ⟨hb.trans (hgo s), _, hbl.trans (hgo (linkReturn s)), rfl, hlink, rfl,
    ⟨hkept, ⟨rfl, hspsr⟩, hmem, hdev, hmark⟩, hfree⟩

/-- Settles O39: the cases of the branch with exchange, for BLX from the state with the link; the immediate form always goes
to Thumb state. (`branchExchange` is the model's PC write.) -/
theorem branchExchange_holds : Obligations.BranchExchange := by
  unfold Obligations.BranchExchange
  intro c rm h off s
  refine ⟨fun hready => ?bx, fun hready => ?blxReg, ?blxImm⟩
  case bx =>
    have hrun : exec (.bx c rm) s = branchExchange (s.readReg rm) s :=
      (exec_bx c rm s).trans (conditional_run (hready.2 c rfl) hready.illFormed)
    exact ⟨fun hlow => hrun.trans (branchExchange_thumb hlow s), fun hlow => hrun.trans (branchExchange_arm hlow s),
      fun hlow => hrun.trans (branchExchange_stops hlow s)⟩
  case blxReg =>
    have hrun : exec (.blxReg c rm) s = branchExchange (s.readReg rm) (linkReturn s) :=
      (exec_blxReg c rm s).trans (conditional_run (hready.2 c rfl) hready.illFormed)
    exact ⟨fun hlow => ⟨_, hrun.trans (branchExchange_thumb hlow _), rfl, rfl, linkReturn_linked s _ _⟩,
      fun hlow => ⟨_, hrun.trans (branchExchange_arm hlow _), rfl, rfl, linkReturn_linked s _ _⟩,
      fun hlow => hrun.trans (branchExchange_stops hlow _)⟩
  case blxImm =>
    obtain ⟨hlink, hframe⟩ := linkReturn_linked s (withThumb s.cpsr true)
      (branchTarget s.pc off + ((BitVec.ofBool h).setWidth 32 <<< 1))
    exact ⟨_, rfl, withThumb_true s.cpsr, hlink, blxImm_target_eq_ofInt s.pc h off, hframe⟩

end Sys2Proof.Machine
end

section
/-! PROOFS. MRS and MSR (45_psr_access.md R331, R332, R334): which bits a field mask selects, and what each form does once it is
ready. -/
namespace Sys2Proof.Machine

/-! ### The field mask -/

/-- The four field constants of the mask, bit by bit (R332). -/
theorem psrField_getLsbD {k : Nat} (hk : k < 32) :
    (0xFF000000 : Word).getLsbD k = decide (k / 8 = 3) ∧ (0x00FF0000 : Word).getLsbD k = decide (k / 8 = 2)
      ∧ (0x0000FF00 : Word).getLsbD k = decide (k / 8 = 1) ∧ (0x000000FF : Word).getLsbD k = decide (k / 8 = 0) := by
  revert k
  decide

theorem getLsbD_ite_zero (b : Bool) (field : Word) (k : Nat) :
    (if b then field else 0).getLsbD k = (b && field.getLsbD k) := by
  cases b
  · exact BitVec.getLsbD_zero
  · rfl

/-- Bit `i` of the field mask selects byte `i` (R332). -/
theorem psrMask_getLsbD (mask : BitVec 4) {k : Nat} (hk : k < 32) :
    (psrMask mask).getLsbD k = mask.getLsbD (k / 8) := by
  obtain ⟨h3, h2, h1, h0⟩ := psrField_getLsbD hk
  simp only [psrMask, BitVec.getLsbD_or, getLsbD_ite_zero, h3, h2, h1, h0]
  obtain h | h | h | h : k / 8 = 0 ∨ k / 8 = 1 ∨ k / 8 = 2 ∨ k / 8 = 3 := by omega
  all_goals simp [h]

theorem maskedWrite_getLsbD (old v mask : Word) {k : Nat} (hk : k < 32) :
    (maskedWrite old v mask).getLsbD k = if mask.getLsbD k then v.getLsbD k else old.getLsbD k := by
  simp only [maskedWrite, BitVec.getLsbD_or, BitVec.getLsbD_and, BitVec.getLsbD_not, hk, decide_true, Bool.true_and]
  cases mask.getLsbD k <;> simp

/-- What MSR makes of the CPSR: in User mode only the flag field is written (R334). -/
def cpsrWritten (mask : BitVec 4) (v : Word) (st : State) : Word :=
  maskedWrite st.cpsr v (if st.mode.privileged then psrMask mask else psrMask mask &&& 0xFF000000)

theorem cpsrWritten_getLsbD (mask : BitVec 4) (v : Word) (st : State) {k : Nat} (hk : k < 32) :
    (cpsrWritten mask v st).getLsbD k
      = if mask.getLsbD (k / 8) && (st.mode != .user || decide (24 ≤ k)) then v.getLsbD k else st.cpsr.getLsbD k := by
  have hflags : decide (k / 8 = 3) = decide (24 ≤ k) := decide_eq_decide.mpr (by omega)
  have hselected : (if st.mode.privileged then psrMask mask else psrMask mask &&& 0xFF000000).getLsbD k
      = (mask.getLsbD (k / 8) && (st.mode != .user || decide (24 ≤ k))) := by
    unfold Mode.privileged
    cases st.mode != .user
    · simp only [Bool.false_eq_true, if_false, BitVec.getLsbD_and, psrMask_getLsbD mask hk, (psrField_getLsbD hk).1,
        hflags, Bool.false_or]
    · simp only [if_true, psrMask_getLsbD mask hk, Bool.true_or, Bool.and_true]
  rw [cpsrWritten, maskedWrite_getLsbD _ _ _ hk, hselected]

/-! ### The two targets of MSR -/

/-- A value that keeps T and names a mode is written; any other stops the machine (R34, R35). -/
theorem writeCpsr_eq (mask : BitVec 4) (v : Word) (st : State) :
    writeCpsr mask v st
      = if (cpsrWritten mask v st).getLsbD 5 != st.cpsr.getLsbD 5 then .fault .msrChangesT
        else if (modeOf (cpsrWritten mask v st)).isSome then advance { st with cpsr := cpsrWritten mask v st }
        else .fault .illegalMode := by
  simp only [writeCpsr]
  rw [← cpsrWritten]
  generalize cpsrWritten mask v st = new
  cases modeOf new <;> rfl

theorem writeSpsr_eq {old : Word} {st : State} (h : st.currentSpsr = some old) (mask : BitVec 4) (v : Word) :
    writeSpsr mask v st = advance { st with spsr := st.spsr.set st.mode (maskedWrite old v (psrMask mask)) } := by
  simp only [writeSpsr, h]

theorem writeSpsr_noSpsr {st : State} (h : st.currentSpsr = none) (mask : BitVec 4) (v : Word) :
    writeSpsr mask v st = .fault .noSpsr := by
  simp only [writeSpsr, h]

/-- A mode that has an SPSR keeps what is written to it. -/
theorem spsr_get_set_same {s : Spsrs} {m : Mode} {old : Word} (h : s.get m = some old) (v : Word) :
    (s.set m v).get m = some v := by
  cases m
  case user | system => cases h
  all_goals rfl

/-! ### The instructions -/

/-- MSR of a register writes the register itself, R15 being excluded. -/
theorem exec_msrReg {c : Cond} {r : Bool} {mask : BitVec 4} {rm : RegNum} {s : State} (h : Ready (.msrReg c r mask rm) s) :
    exec (.msrReg c r mask rm) s = if r then writeSpsr mask (s.reg rm) s else writeCpsr mask (s.reg rm) s := by
  have hpc := firstFailing_none h.illFormed (bad := rm == 15) (why := .msrPc) (List.mem_singleton.mpr rfl)
  have hrm : rm ≠ 15 := by simpa using hpc
  rw [← readReg_of_ne s hrm]
  exact exec_of_ready h rfl fun _ => rfl

theorem exec_msrImm {c : Cond} {r : Bool} {mask : BitVec 4} {op : RotImm} {s : State} (h : Ready (.msrImm c r mask op) s) :
    exec (.msrImm c r mask op) s = if r then writeSpsr mask (rotImmValue op) s else writeCpsr mask (rotImmValue op) s :=
  exec_of_ready h rfl fun _ => rfl

/-- Settles O40: MRS is a register write, which in the SPSR form asks for the SPSR first. -/
theorem statusRegisterRead : Obligations.StatusRegisterRead := by
  unfold Obligations.StatusRegisterRead
  intro c rd s hpc
  have reads (x : Word) (hrd : rd ≠ 15) :
      ∃ t, advance (s.setReg rd x) = .next t ∧ t.reg rd = x ∧ t.cpsr = s.cpsr ∧ t.pc = s.pc + 4
        ∧ OnlyRegisters s t [rd] ∧ t.freeIdx = s.freeIdx := by
    obtain ⟨t, hnext, hchange, hval, hpc', hkept⟩ := advance_setReg hrd hpc x
    exact ⟨t, hnext, hval, hchange.cpsr, hpc', hchange.onlyRegisters hkept, hchange.freeIdx⟩
  refine ⟨fun hready => ?cpsr, fun hready => ⟨fun psr hpsr => ?spsr, fun hmode => ?noSpsr⟩⟩
  all_goals rw [exec_of_ready hready rfl fun _ => rfl]
  case cpsr => exact reads s.cpsr (mrs_rd hready.illFormed)
  case spsr => simpa only [hpsr, if_true] using reads psr (mrs_rd hready.illFormed)
  case noSpsr => simp only [currentSpsr_eq_none hmode, if_true]

/-- Settles O41: the bits asked for are those of `cpsrWritten`, and its three outcomes are those of the write. -/
theorem statusRegisterWrite : Obligations.StatusRegisterWrite := by
  unfold Obligations.StatusRegisterWrite
  intro c mask rm imm s new hpc writes
  have writes_of_exec {i : Instr} {v : Word} (hexec : Ready i s → exec i s = writeCpsr mask v s) : writes i v := by
    intro hbits hready
    have hnew : cpsrWritten mask v s = new :=
      BitVec.eq_of_getLsbD_eq fun k hk => (cpsrWritten_getLsbD mask v s hk).trans (hbits k hk).symm
    rw [hexec hready, writeCpsr_eq, hnew]
    refine ⟨fun hT hmode => ?_, fun hT => ?_, fun hT hmode => ?_⟩
    · rw [hT, hmode, bne_self_eq_false, if_neg Bool.false_ne_true, if_pos rfl]
      exact advance_of_ne hpc
    · rw [if_pos (bne_iff_ne.mpr hT)]
    · rw [hT, hmode, bne_self_eq_false]
      rfl
  exact ⟨writes_of_exec exec_msrReg, writes_of_exec exec_msrImm⟩

/-- Settles O42: the SPSR of the current mode takes the masked value, whatever it is, and no other SPSR changes. -/
theorem savedStatusWrite : Obligations.SavedStatusWrite := by
  unfold Obligations.SavedStatusWrite
  intro c mask rm imm s hpc writes
  have writes_of_exec {i : Instr} {v : Word} (hexec : Ready i s → exec i s = writeSpsr mask v s) : writes i v := by
    intro hready
    rw [hexec hready]
    refine ⟨fun old hold => ?_, fun hmode => writeSpsr_noSpsr (currentSpsr_eq_none hmode) mask v⟩
    rw [writeSpsr_eq hold]
    refine ⟨_, advance_of_ne hpc, ⟨_, spsr_get_set_same hold _, fun k hk => ?_⟩, fun m hm => spsr_get_set_other _ _ hm⟩
    rw [maskedWrite_getLsbD _ _ _ hk, psrMask_getLsbD mask hk]
  exact ⟨writes_of_exec exec_msrReg, writes_of_exec exec_msrImm⟩

end Sys2Proof.Machine
end

section
/-! PROOFS. What User mode may not change (45_psr_access.md R334, 60_exceptions.md R444), and the operations on the state that
keep it or leave User mode through a vector. -/
namespace Sys2Proof.Machine

/-! ### The protected part of the state -/

/-- CPSR bits 23:0 but for T, every SPSR and the registers outside the User bank are as before. -/
def ProtectedKept (s t : State) : Prop :=
  (∀ k, k < 24 → k ≠ 5 → t.cpsr.getLsbD k = s.cpsr.getLsbD k) ∧ t.spsr = s.spsr
    ∧ ∀ k : Fin 30, 15 ≤ k.val → t.regs[k] = s.regs[k]

/-- In `t`, an exception or a reset has just been entered: a privileged mode other than System, in ARM state, IRQ disabled, at a
vector (R87, R436, R631). -/
def EnteredAtVector (t : State) : Prop :=
  t.mode ≠ .user ∧ t.irqDisabled = true ∧ t.thumb = false ∧ t.mode ≠ .system
    ∧ t.pc ∈ ([0x00, 0x04, 0x08, 0x0C, 0x10, 0x18, 0x1C] : List Word)

/-- From User mode, the way from `s` to `t` keeps the protected part. -/
def UserKept (s t : State) : Prop := s.mode = .user → ProtectedKept s t

/-- From User mode, the way from `s` to `t` keeps the protected part or ends in an entry. -/
def UserConfined (s t : State) : Prop := s.mode = .user → ProtectedKept s t ∨ EnteredAtVector t

/-- The kept bits are the fields that the statement names. -/
theorem ProtectedKept.cpsr_fields {s t : State} (h : ProtectedKept s t) :
    t.cpsr.extractLsb' 6 18 = s.cpsr.extractLsb' 6 18 ∧ t.cpsr.extractLsb' 0 5 = s.cpsr.extractLsb' 0 5 := by
  obtain ⟨hbits, -, -⟩ := h
  constructor
  all_goals
    refine BitVec.eq_of_getLsbD_eq fun k hk => ?_
    rw [BitVec.getLsbD_extractLsb', BitVec.getLsbD_extractLsb', hbits _ (by omega) (by omega)]

theorem ProtectedKept.mode {s t : State} (h : ProtectedKept s t) : t.mode = s.mode := by
  rw [State.mode, State.mode, modeOf, modeOf, h.cpsr_fields.2]

theorem ProtectedKept.trans {r s t : State} (h : ProtectedKept r s) (h' : ProtectedKept s t) : ProtectedKept r t := by
  obtain ⟨hbits, hspsr, hregs⟩ := h
  obtain ⟨hbits', hspsr', hregs'⟩ := h'
  exact ⟨fun k hk h5 => (hbits' k hk h5).trans (hbits k hk h5), hspsr'.trans hspsr,
    fun k hk => (hregs' k hk).trans (hregs k hk)⟩

theorem UserKept.trans {r s t : State} (h : UserKept r s) (h' : UserKept s t) : UserKept r t := fun hu =>
  have hs := h hu
  hs.trans (h' (hs.mode.trans hu))

theorem UserKept.confined {s t : State} (h : UserKept s t) : UserConfined s t := fun hu => .inl (h hu)

theorem EnteredAtVector.confined {t : State} (h : EnteredAtVector t) (s : State) : UserConfined s t := fun _ => .inr h

/-- What keeps the protected part leaves the rest of the way to be confined. -/
theorem UserKept.andThen {r s t : State} (h : UserKept r s) (h' : UserConfined s t) : UserConfined r t := fun hu =>
  have hs := h hu
  (h' (hs.mode.trans hu)).imp_left hs.trans

/-! ### Operations that keep the protected part -/

theorem userKept_of_eq {s t : State} (hcpsr : t.cpsr = s.cpsr) (hspsr : t.spsr = s.spsr) (hregs : t.regs = s.regs) :
    UserKept s t := fun _ =>
  ⟨fun _ _ _ => by rw [hcpsr], hspsr, fun _ _ => by rw [hregs]⟩

theorem userKept_of_cpsr {st : State} {psr : Word}
    (h : ∀ k, k < 24 → k ≠ 5 → psr.getLsbD k = st.cpsr.getLsbD k) : UserKept st { st with cpsr := psr } := fun _ =>
  ⟨h, rfl, fun _ _ => rfl⟩

theorem AfterRead.userKept {s t : State} (h : AfterRead s t) : UserKept s t := by
  obtain ⟨_, _, _, _, rfl⟩ := h
  exact userKept_of_eq rfl rfl rfl

theorem AfterWrite.userKept {s t : State} (h : AfterWrite s t) : UserKept s t := by
  obtain ⟨_, _, _, _, _, _, _, _, _, rfl⟩ := h
  exact userKept_of_eq rfl rfl rfl

/-- The User bank has the first fifteen places (R24). -/
theorem physIndex_user_lt : ∀ r : RegNum, r ≠ 15 → (physIndex .user r).val < 15 := by decide

theorem setRegIn_user_kept (st : State) (r : RegNum) (v : Word) : UserKept st (st.setRegIn .user r v) := by
  intro _
  refine ⟨fun _ _ _ => rfl, rfl, fun k hk => ?_⟩
  by_cases hr : r = 15
  · simp only [State.setRegIn, hr, if_true]
  · have hne : (physIndex .user r).val ≠ k.val := by have := physIndex_user_lt r hr; omega
    rw [setRegIn_regs _ _ _ _ hr]
    exact Vector.getElem_set_ne _ _ hne

/-- In User mode a register write goes to the User bank. -/
theorem setReg_kept (st : State) (r : RegNum) (v : Word) : UserKept st (st.setReg r v) := fun hu => by
  rw [State.setReg, hu]
  exact setRegIn_user_kept st r v hu

theorem withFlags_getLsbD (psr : Word) (f : Flags) {k : Nat} (hk : k < 28) :
    (withFlags psr f).getLsbD k = psr.getLsbD k := by
  rw [withFlags, getLsbD_append_low _ _ k hk, BitVec.getLsbD_extractLsb', decide_eq_true hk, Bool.true_and, Nat.zero_add]

theorem setFlags_kept (st : State) (f : Flags) : UserKept st (st.setFlags f) :=
  userKept_of_cpsr fun _ hk _ => withFlags_getLsbD st.cpsr f (by omega)

/-- A change of T and of the PC, as BX and BLX make it. -/
theorem setThumb_kept (st : State) (b : Bool) (v : Word) :
    UserKept st { st with cpsr := withThumb st.cpsr b, pc := v } := fun _ =>
  ⟨fun _ hk h5 => (withThumb_getLsbD st.cpsr b (by omega)).trans (if_neg h5), rfl, fun _ _ => rfl⟩

theorem writeBase_kept (rn : RegNum) (wb : Option Word) (st : State) : UserKept st (writeBase rn wb st) := by
  cases wb with
  | none => exact userKept_of_eq rfl rfl rfl
  | some v => exact setReg_kept st rn v

theorem advance_kept {st t : State} (h : advance st = .next t) : UserKept st t := by
  obtain ⟨-, rfl⟩ := advance_next.mp h
  exact userKept_of_eq rfl rfl rfl

theorem branchTo_kept {v : Word} {st t : State} (h : branchTo v st = .next t) : UserKept st t := by
  obtain ⟨-, rfl⟩ := branchTo_next.mp h
  exact userKept_of_eq rfl rfl rfl

theorem branchExchange_kept {v : Word} {st t : State} (h : branchExchange v st = .next t) : UserKept st t := by
  obtain ⟨-, rfl⟩ | ⟨-, -, rfl⟩ := branchExchange_next h
  · exact setThumb_kept st true _
  · exact setThumb_kept st false _

/-- User mode has no SPSR to return with (R37, R438). -/
theorem exceptionReturn_kept {v : Word} {st t : State} (h : exceptionReturn v st = .next t) : UserKept st t := by
  intro hu
  rw [exceptionReturn_noSpsr (currentSpsr_eq_none (.inl hu))] at h
  cases h

theorem writeLoaded_kept {rd : RegNum} {v : Word} {st t : State} (h : writeLoaded rd v st = .next t) : UserKept st t := by
  unfold writeLoaded at h
  split at h
  · exact branchTo_kept h
  · exact (setReg_kept st rd v).trans (advance_kept h)

/-- In User mode MSR writes the flag field of the CPSR only (R334). -/
theorem writeCpsr_kept {mask : BitVec 4} {v : Word} {st t : State} (h : writeCpsr mask v st = .next t) :
    UserKept st t := by
  intro hu
  have hbits : ∀ k, k < 24 → k ≠ 5 → (cpsrWritten mask v st).getLsbD k = st.cpsr.getLsbD k := fun k hk _ => by
    rw [cpsrWritten_getLsbD mask v st (by omega), hu, decide_eq_false (by omega), bne_self_eq_false, Bool.or_self,
      Bool.and_false, if_neg Bool.false_ne_true]
  rw [writeCpsr_eq] at h
  split at h
  · cases h
  split at h
  · exact (userKept_of_cpsr hbits).trans (advance_kept h) hu
  · cases h

/-- In User mode MSR has no SPSR to write (R37). -/
theorem writeSpsr_kept {mask : BitVec 4} {v : Word} {st t : State} (h : writeSpsr mask v st = .next t) :
    UserKept st t := by
  intro hu
  rw [writeSpsr_noSpsr (currentSpsr_eq_none (.inl hu))] at h
  cases h

/-! ### Entries -/

theorem takeException_atVector (e : Exception) (st : State) : EnteredAtVector (takeException e st) := by
  obtain ⟨hmode, -, -, hpc, hirq, -, hthumb, -⟩ := takeException_entered e st
  refine ⟨?_, hirq, hthumb, ?_, ?_⟩
  · rw [hmode]; cases e <;> decide
  · rw [hmode]; cases e <;> decide
  · rw [hpc]; cases e <;> decide

theorem takeReset_atVector (cause : ResetCause) (st : State) : EnteredAtVector (takeReset cause st) := by
  have hlow (k : Nat) (hk : k < 8) : (takeReset cause st).cpsr.getLsbD k = (0xD3#8).getLsbD k :=
    getLsbD_append_low ((st.freeAt 30).extractLsb' 8 24) 0xD3#8 k hk
  have hmode : (takeReset cause st).mode = .supervisor :=
    congrArg (fun m => (Mode.ofBits m).getD .user)
      (extract_append_low ((st.freeAt 30).extractLsb' 8 24) 0xD3#8 0 5 (by decide))
  refine ⟨?_, hlow 7 (by decide), hlow 5 (by decide), ?_, ?_⟩
  · rw [hmode]; decide
  · rw [hmode]; decide
  · exact List.mem_cons_self ..

theorem abortTransfer_atVector {rn : RegNum} {wb : Option Word} {st t : State} (h : abortTransfer rn wb st = .next t) :
    EnteredAtVector t := by
  obtain rfl | rfl | ⟨v, -, rfl⟩ := abortTransfer_next h <;> exact takeException_atVector .dataAbort _

/-- No coprocessor is present, so the instruction is taken as undefined (R341). -/
theorem coprocessor_atVector {cp : BitVec 4} {present : State → Result} {st t : State}
    (h : coprocessor cp st present = .next t) : EnteredAtVector t := by
  obtain rfl := Host.Outcome.next.inj h
  exact takeException_atVector .undefinedInstruction st

end Sys2Proof.Machine
end

section
/-! PROOFS. Every instruction run in User mode keeps the protected part of the state or enters an exception, and with the
boundary every step does (45_psr_access.md R334, 60_exceptions.md R444). -/
namespace Sys2Proof.Machine

/-! ### The common executions -/

theorem dataProcess_kept {f : AluOp} {s : Bool} {rn rd : RegNum} {o : Shifted} {st t : State}
    (h : dataProcess f s rn rd o st = .next t) : UserKept st t := by
  unfold dataProcess writeAlu at h
  generalize f _ _ _ = r at h
  split at h
  · split at h
    · exact exceptionReturn_kept h
    · exact branchTo_kept h
  · refine UserKept.trans ?_ ((setReg_kept _ rd r.value).trans (advance_kept h))
    cases s
    · exact userKept_of_eq rfl rfl rfl
    · exact setFlags_kept st r.flags

theorem compare_kept {f : AluOp} {rn : RegNum} {o : Shifted} {st t : State} (h : compare f rn o st = .next t) :
    UserKept st t :=
  (setFlags_kept st _).trans (advance_kept h)

/-- The flags of a multiply, which draws a free value for those that R292 leaves open. -/
theorem afterMultiplyFlags_kept (st : State) (s : Bool) (f : Flags) : UserKept st (st.afterMultiplyFlags s f) := by
  cases s
  · exact userKept_of_eq rfl rfl rfl
  · exact (setFlags_kept st f).trans (userKept_of_eq rfl rfl rfl)

theorem writeProduct_kept {s : Bool} {rd : RegNum} {r : Word} {st t : State} (h : writeProduct s rd r st = .next t) :
    UserKept st t :=
  (afterMultiplyFlags_kept st s _).trans ((setReg_kept _ rd r).trans (advance_kept h))

theorem writeProductLong_kept {s : Bool} {rdHi rdLo : RegNum} {r : BitVec 64} {st t : State}
    (h : writeProductLong s rdHi rdLo r st = .next t) : UserKept st t :=
  (afterMultiplyFlags_kept st s _).trans ((setReg_kept _ rdLo _).trans ((setReg_kept _ rdHi _).trans (advance_kept h)))

theorem loadTransfer_confined {w : Width} {ext : Word → Word} {rn rd : RegNum} {m : Address} {st t : State}
    (h : loadTransfer w ext rn rd m st = .next t) : UserConfined st t := by
  obtain ⟨x, s1, hread, hwrite⟩ | ⟨s1, -, habort⟩ := loadTransfer_next h
  · exact ((memRead_ok hread).userKept.trans ((writeBase_kept rn m.wb s1).trans (writeLoaded_kept hwrite))).confined
  · exact (abortTransfer_atVector habort).confined st

theorem storeTransfer_confined {w : Width} {rn : RegNum} {v : Word} {m : Address} {st t : State}
    (h : storeTransfer w rn v m st = .next t) : UserConfined st t := by
  obtain ⟨s1, hwrite, hadvance⟩ | ⟨s1, -, habort⟩ := storeTransfer_next h
  · exact ((memWrite_afterWrite hwrite).userKept.trans ((writeBase_kept rn m.wb s1).trans (advance_kept hadvance))).confined
  · exact (abortTransfer_atVector habort).confined st

theorem swapTransfer_confined {w : Width} {rn rd rm : RegNum} {st t : State}
    (h : swapTransfer w rn rd rm st = .next t) : UserConfined st t := by
  obtain ⟨x, s1, s2, hread, hwrite, hadvance⟩ | ⟨s1, -, rfl⟩ := swapTransfer_next h
  · exact ((memRead_ok hread).userKept.trans ((memWrite_afterWrite hwrite).userKept.trans
      ((setReg_kept s2 rd x).trans (advance_kept hadvance)))).confined
  · exact (takeException_atVector .dataAbort s1).confined st

/-- Loading into the User bank, or in User mode into the current one. -/
theorem loadRegs_kept {user : Bool} {regs : List RegNum} {a x : Word} {st t : State}
    (h : loadRegs user regs a st = .ok x t) : UserKept st t := by
  induction regs generalizing a st with
  | nil =>
    obtain ⟨-, rfl⟩ := Access.ok.inj h
    exact userKept_of_eq rfl rfl rfl
  | cons r rest ih =>
    rw [loadRegs] at h
    split at h
    · cases h
    · cases h
    · next v s1 hread =>
      refine (memRead_ok hread).userKept.trans (UserKept.trans ?_ (ih h))
      split
      · exact setRegIn_user_kept s1 r v
      · exact setReg_kept s1 r v

theorem finishLdm_confined {s : Bool} {rn : RegNum} {wb : Option Word} {list : BitVec 16} {a : Word} {st t : State}
    (h : finishLdm s rn wb list a st = .next t) : UserConfined st t := by
  unfold finishLdm at h
  split at h
  · split at h
    · cases h
    · exact (abortTransfer_atVector h).confined st
    · next v s1 hread =>
      refine ((memRead_ok hread).userKept.trans ((writeBase_kept rn wb s1).trans ?_)).confined
      split at h
      · exact exceptionReturn_kept h
      · exact branchTo_kept h
  · have hmark : UserKept (writeBase rn wb st) { writeBase rn wb st with userBankLdm := s } := userKept_of_eq rfl rfl rfl
    exact ((writeBase_kept rn wb st).trans (hmark.trans (advance_kept h))).confined

theorem finishStm_confined {rn : RegNum} {wb : Option Word} {list : BitVec 16} {a : Word} {st t : State}
    (h : finishStm rn wb list a st = .next t) : UserConfined st t := by
  unfold finishStm at h
  split at h
  · split at h
    · cases h
    · exact (abortTransfer_atVector h).confined st
    · next s1 hwrite =>
      exact ((memWrite_afterWrite hwrite).userKept.trans ((writeBase_kept rn wb s1).trans (advance_kept h))).confined
  · exact ((writeBase_kept rn wb st).trans (advance_kept h)).confined

theorem loadBlock_confined {p u s w : Bool} {rn : RegNum} {list : BitVec 16} {base : Word} {st t : State}
    (h : loadBlock p u s w rn list base st = .next t) : UserConfined st t := by
  unfold loadBlock at h
  dsimp only at h
  split at h
  · cases h
  split at h
  · cases h
  split at h
  · cases h
  · exact (abortTransfer_atVector h).confined st
  · next hload => exact (loadRegs_kept hload).andThen (finishLdm_confined h)

theorem storeBlock_confined {p u s w : Bool} {rn : RegNum} {list : BitVec 16} {base : Word} {st t : State}
    (h : storeBlock p u s w rn list base st = .next t) : UserConfined st t := by
  unfold storeBlock at h
  dsimp only at h
  split at h
  · cases h
  split at h
  · cases h
  split at h
  · cases h
  · exact (abortTransfer_atVector h).confined st
  · next hstore => exact (storeRegs_frame (.inr ⟨_, hstore⟩)).userKept.andThen (finishStm_confined h)

/-! ### Instructions -/

theorem conditional_confined {c : Cond} {i : Instr} {st t : State} {act : State → Result}
    (h : conditional c i st act = .next t) (hact : act st = .next t → UserConfined st t) : UserConfined st t := by
  obtain ⟨-, -, h⟩ | ⟨-, h⟩ := conditional_next h
  · exact hact h
  · exact (advance_kept h).confined

theorem execMrs_confined {c : Cond} {r : Bool} {rd : RegNum} {st t : State} (h : execMrs c r rd st = .next t) :
    UserConfined st t := by
  refine conditional_confined h fun h => UserKept.confined ?_
  split at h
  · split at h
    · cases h
    · exact (setReg_kept st rd _).trans (advance_kept h)
  · exact (setReg_kept st rd _).trans (advance_kept h)

/-- The two targets of MSR (R332). -/
theorem writePsr_kept {r : Bool} {mask : BitVec 4} {v : Word} {st t : State}
    (h : (if r then writeSpsr mask v st else writeCpsr mask v st) = .next t) : UserKept st t := by
  cases r
  · exact writeCpsr_kept h
  · exact writeSpsr_kept h

/-- Every instruction that a word decodes to is confined in User mode, by the common execution of its family. -/
theorem exec_confined {i : Instr} (hi : i.isPseudo = false) {st t : State} (h : exec i st = .next t) :
    UserConfined st t := by
  cases i
  case ldrPseudo | adr | adrl | nop => cases hi
  all_goals unfold exec at h
  case andImm | andShiftImm | andShiftReg | eorImm | eorShiftImm | eorShiftReg | subImm | subShiftImm |
      subShiftReg | rsbImm | rsbShiftImm | rsbShiftReg | addImm | addShiftImm | addShiftReg | adcImm | adcShiftImm |
      adcShiftReg | sbcImm | sbcShiftImm | sbcShiftReg | rscImm | rscShiftImm | rscShiftReg | orrImm | orrShiftImm |
      orrShiftReg | movImm | movShiftImm | movShiftReg | bicImm | bicShiftImm | bicShiftReg | mvnImm | mvnShiftImm |
      mvnShiftReg =>
    exact conditional_confined h fun h => (dataProcess_kept h).confined
  case tstImm | tstShiftImm | tstShiftReg | teqImm | teqShiftImm | teqShiftReg | cmpImm | cmpShiftImm |
      cmpShiftReg | cmnImm | cmnShiftImm | cmnShiftReg =>
    exact conditional_confined h fun h => (compare_kept h).confined
  case mul | mla => exact conditional_confined h fun h => (writeProduct_kept h).confined
  case umull | umlal | smull | smlal => exact conditional_confined h fun h => (writeProductLong_kept h).confined
  case swp | swpb => exact conditional_confined h swapTransfer_confined
  case ldrhImmPre | ldrhRegPre | ldrsbImmPre | ldrsbRegPre | ldrshImmPre | ldrshRegPre | ldrImmPre | ldrRegPre |
      ldrbImmPre | ldrbRegPre | ldrhImmPost | ldrhRegPost | ldrsbImmPost | ldrsbRegPost | ldrshImmPost |
      ldrshRegPost | ldrImmPost | ldrRegPost | ldrbImmPost | ldrbRegPost =>
    exact conditional_confined h loadTransfer_confined
  case strhImmPre | strhRegPre | strImmPre | strRegPre | strbImmPre | strbRegPre | strhImmPost | strhRegPost |
      strImmPost | strRegPost | strbImmPost | strbRegPost =>
    exact conditional_confined h storeTransfer_confined
  case ldm => exact conditional_confined h loadBlock_confined
  case stm => exact conditional_confined h storeBlock_confined
  case b => exact conditional_confined h fun h => (branchTo_kept h).confined
  case bl => exact conditional_confined h fun h => ((setReg_kept st 14 _).trans (branchTo_kept h)).confined
  case bx => exact conditional_confined h fun h => (branchExchange_kept h).confined
  case blxReg => exact conditional_confined h fun h => ((setReg_kept st 14 _).trans (branchExchange_kept h)).confined
  case blxImm =>
    exact Host.Outcome.next.inj h ▸ ((setReg_kept st 14 _).trans (setThumb_kept (linkReturn st) true _)).confined
  case mrs => exact execMrs_confined h
  case msrReg | msrImm => exact conditional_confined h fun h => (writePsr_kept h).confined
  case cdp | ldc | stc | mcr | mrc => exact conditional_confined h fun h => (coprocessor_atVector h).confined st
  case swi | undefMem | undefMsr =>
    exact conditional_confined h fun h => Host.Outcome.next.inj h ▸ (takeException_atVector _ st).confined st
  case bkpt => exact Host.Outcome.next.inj h ▸ (takeException_atVector _ st).confined st

/-! ### The boundary and the step -/

theorem atBoundary_kept (s : State) : UserKept s (atBoundary s) := userKept_of_eq rfl rfl rfl

theorem boundary_done_confined {s t : State} (h : boundary s = .done t) : UserConfined s t := by
  obtain ⟨cause, -, -, rfl⟩ | ⟨-, rfl⟩ | ⟨e, -, rfl⟩ := boundary_done h
  · exact (takeReset_atVector cause _).confined s
  · exact (atBoundary_kept s).confined
  · exact (takeException_atVector e _).confined s

theorem boundary_run_kept {s t : State} (h : boundary s = .run t) : UserKept s t := by
  obtain ⟨rfl, -, -⟩ := boundary_run h
  obtain ⟨pcon, power, hwake⟩ := wakeUp_frame (atBoundary s)
  rw [hwake]
  exact (atBoundary_kept s).trans (userKept_of_eq rfl rfl rfl)

theorem step_confined {s t : State} (h : step s = .next t) : UserConfined s t := by
  obtain hdone | ⟨s1, hrun, -, hnext⟩ := step_next h
  · exact boundary_done_confined hdone
  have hmark : UserKept s { s1 with userBankLdm := false } :=
    (boundary_run_kept hrun).trans (userKept_of_eq rfl rfl rfl)
  obtain ⟨-, rfl⟩ | ⟨w, -, ⟨c, -, -, hskip⟩ | ⟨i, hdecode, -, hexec⟩⟩ := hnext
  · exact (takeException_atVector .prefetchAbort s1).confined s
  · exact (hmark.trans (advance_kept hskip)).confined
  · exact hmark.andThen (exec_confined (decodingIsInjective w i hdecode).2 hexec)

/-- Settles O9: a step that keeps the protected part stays in User mode, and any other enters an exception or a reset. -/
theorem userModeIsConfined : Obligations.UserModeIsConfined := by
  unfold Obligations.UserModeIsConfined
  intro s t _ hu h
  obtain hkept | ⟨hleft, hentry⟩ := step_confined h hu
  · have hstays : t.mode = .user := hkept.mode.trans hu
    obtain ⟨hcontrol, hmode⟩ := hkept.cpsr_fields
    obtain ⟨-, hspsr, hregs⟩ := hkept
    exact ⟨fun _ => ⟨hcontrol, hmode, hspsr, hregs⟩, fun hleft => absurd hstays hleft⟩
  · exact ⟨fun hstays => absurd hstays hleft, fun _ => hentry⟩

end Sys2Proof.Machine
end

section
/-! PROOFS. The coprocessor instructions and the two undefined spaces enter Undefined mode (46_coprocessor.md R341,
30_encoding.md R146), BKPT enters Abort mode (47_exception_generating.md R362). -/
namespace Sys2Proof.Machine

/-! ### The entries in ARM state -/

/-- The return address of an undefined instruction in ARM state is that of the next one (R431, R436). -/
theorem takeException_undefined_entered {st : State} (harm : st.thumb = false) :
    Entered st (takeException .undefinedInstruction st) .undefined (st.pc + 4) 0x04 false := by
  have h := takeException_entered .undefinedInstruction st
  rwa [harm] at h

/-- No coprocessor is present, whatever the number and whatever it would do (R341). -/
theorem coprocessor_absent (cp : BitVec 4) (st : State) (present : State → Result) :
    coprocessor cp st present = .next (takeException .undefinedInstruction st) := rfl

/-! ### Instructions that take the exception -/

/-- A conditional instruction whose action is the Undefined exception takes it. -/
theorem takes_undefined {i : Instr} {c : Cond} {st : State} {act : State → Result} (harm : st.thumb = false)
    (hc : i.cond? = some c) (he : ∀ s, exec i s = conditional c i s act)
    (hact : act st = .next (takeException .undefinedInstruction st)) :
    Takes i st .undefined (st.pc + 4) 0x04 false := fun hready =>
  ⟨_, (exec_of_ready hready hc he).trans hact, takeException_undefined_entered harm⟩

/-- A coprocessor instruction takes the Undefined exception: what a coprocessor would do never runs. -/
theorem takes_coprocessor {i : Instr} {c : Cond} {cp : BitVec 4} {st : State} {present : State → Result}
    (harm : st.thumb = false) (hc : i.cond? = some c)
    (he : ∀ s, exec i s = conditional c i s fun st => coprocessor cp st present) :
    Takes i st .undefined (st.pc + 4) 0x04 false :=
  takes_undefined harm hc he (coprocessor_absent cp st present)

theorem takes_bkpt (imm : BitVec 16) (st : State) : Takes (.bkpt imm) st .abort (st.pc + 4) 0x0C false :=
  fun _ => ⟨takeException .prefetchAbort st, rfl, takeException_entered .prefetchAbort st⟩

/-- Settles O44: the coprocessor is absent, the undefined spaces go straight to the exception, and BKPT has no condition. -/
theorem undefinedAndBreakpoint : Obligations.UndefinedAndBreakpoint := by
  unfold Obligations.UndefinedAndBreakpoint
  intro c p u n w rn rd op1 crn crd cp crm lo k1 op2 off half hi s harm
  refine ⟨?cdp, ?ldc, ?stc, ?mcr, ?mrc, ?undefMem, ?undefMsr, takes_bkpt half s⟩
  case cdp | ldc | stc | mcr | mrc => exact takes_coprocessor harm rfl fun _ => rfl
  case undefMem | undefMsr => exact takes_undefined harm rfl (fun _ => rfl) rfl

end Sys2Proof.Machine
end

section
/-! PROOFS. The reserved bits of the device registers (60_exceptions.md R465, 92_eei_decisions.md D26): no device write stores
them, and nothing else a step does touches the registers that have them. -/
namespace Sys2Proof.Machine

/-! ### The parts of the invariant -/

theorem reservedClear_iff {st : State} :
    st.reservedClear = true ↔ st.ext.intwake &&& 0x3F00 = 0 ∧ st.sys.scs &&& 0xC4 = 0 ∧ st.sys.pcon &&& 0x60 = 0
      ∧ st.sys.pllcfg &&& 0xFF008000 = 0 ∧ st.sys.pllCfgEff &&& 0xFF008000 = 0 ∧ st.sys.pconp &&& 0x00078001 = 0
      ∧ st.pinConn.pinsel[10] &&& 0xFFFFFFF7 = 0 := by
  simp only [State.reservedClear, Bool.and_eq_true, beq_iff_eq, and_assoc]

/-- What is stored under a mask has no bit outside it. -/
theorem and_and_eq_zero {n : Nat} {mask reserved : BitVec n} (h : mask &&& reserved = 0) (v : BitVec n) :
    v &&& mask &&& reserved = 0 := by
  rw [BitVec.and_assoc, h]
  exact BitVec.and_zero

/-- A successful access leaves the reserved bits clear. -/
def ClearAfter (r : Access Unit) : Prop := ∀ t, r = .ok () t → t.reservedClear = true

theorem clearAfter_ok {st : State} (h : st.reservedClear = true) : ClearAfter (.ok () st) := fun _ ht =>
  (Access.ok.inj ht).2 ▸ h

theorem clearAfter_stop {f : Fault} : ClearAfter (.stop f) := fun _ ht => by cases ht

theorem clearAfter_abort {st : State} : ClearAfter (.abort st) := fun _ ht => by cases ht

/-- A check that stops the machine leaves the access to the case where it does not. -/
theorem clearAfter_guard {c : Prop} [Decidable c] {f : Fault} {r : Access Unit} (h : ClearAfter r) :
    ClearAfter (if c then .stop f else r) := by
  split
  · exact clearAfter_stop
  · exact h

/-! ### Device writes -/

theorem writePcon_clear {st : State} (hs : st.reservedClear = true) (v : Word) : ClearAfter (writePcon v st) := by
  obtain ⟨hwake, hscs, -, hcfg, heff, hpconp, hpin⟩ := reservedClear_iff.mp hs
  unfold writePcon
  split
  · exact clearAfter_stop
  · exact clearAfter_ok (reservedClear_iff.mpr
      ⟨hwake, hscs, and_and_eq_zero (by decide) _, hcfg, heff, hpconp, hpin⟩)

/-- A feed copies PLLCFG, whose reserved bits are clear, to the effective configuration (R556). -/
theorem writePllfeed_clear {st : State} (hs : st.reservedClear = true) (v : Word) :
    (writePllfeed v st).reservedClear = true := by
  obtain ⟨hwake, hscs, hpcon, hcfg, -, hpconp, hpin⟩ := reservedClear_iff.mp hs
  unfold writePllfeed
  split
  · exact hs
  split
  · exact reservedClear_iff.mpr ⟨hwake, hscs, hpcon, hcfg, hcfg, hpconp, hpin⟩
  · exact hs

/-- The registers with reserved bits are stored under their mask; the others are not part of the invariant. -/
theorem writeSysReg_clear {st : State} (hs : st.reservedClear = true) (r : SysReg) (v : Word) :
    ClearAfter (writeSysReg r v st) := by
  obtain ⟨hwake, hscs, hpcon, hcfg, heff, hpconp, hpin⟩ := reservedClear_iff.mp hs
  cases r
  case mamcr | mamtim | memmap => exact clearAfter_guard (clearAfter_ok hs)
  case clksrcsel => exact clearAfter_guard (clearAfter_guard (clearAfter_ok hs))
  case pcon => exact writePcon_clear hs v
  case pllfeed => exact clearAfter_ok (writePllfeed_clear hs v)
  case pllcfg =>
    exact clearAfter_ok (reservedClear_iff.mpr
      ⟨hwake, hscs, hpcon, and_and_eq_zero (by decide) v, heff, hpconp, hpin⟩)
  case pconp =>
    exact clearAfter_ok (reservedClear_iff.mpr
      ⟨hwake, hscs, hpcon, hcfg, heff, and_and_eq_zero (by decide) v, hpin⟩)
  case scs =>
    exact clearAfter_ok (reservedClear_iff.mpr
      ⟨hwake, and_and_eq_zero (by decide) _, hpcon, hcfg, heff, hpconp, hpin⟩)
  case intwake =>
    exact clearAfter_ok (reservedClear_iff.mpr
      ⟨and_and_eq_zero (by decide) _, hscs, hpcon, hcfg, heff, hpconp, hpin⟩)
  all_goals exact clearAfter_ok hs

theorem writeSystem_clear {st : State} (hs : st.reservedClear = true) (off : Nat) (v : Word) :
    ClearAfter (writeSystem off v st) := by
  unfold writeSystem
  split
  · exact clearAfter_stop
  · exact writeSysReg_clear hs _ v

/-- PINSEL0 to PINSEL9 stand before PINSEL10, which keeps bit 3 only (R622). -/
theorem writePins_clear {st : State} (hs : st.reservedClear = true) (off : Nat) (v : Word) :
    ClearAfter (writePins off v st) := by
  obtain ⟨hwake, hscs, hpcon, hcfg, heff, hpconp, hpin⟩ := reservedClear_iff.mp hs
  unfold writePins
  split
  · next hoff =>
    have hne : (Fin.ofNat 11 (off / 4)).val ≠ 10 := by rw [Fin.val_ofNat]; omega
    refine clearAfter_ok (reservedClear_iff.mpr ⟨hwake, hscs, hpcon, hcfg, heff, hpconp, ?_⟩)
    exact (congrArg (· &&& _) (Vector.getElem_set_ne (Fin.isLt _) _ hne)).trans hpin
  split
  · refine clearAfter_ok (reservedClear_iff.mpr ⟨hwake, hscs, hpcon, hcfg, heff, hpconp, ?_⟩)
    exact (congrArg (· &&& _) (Vector.getElem_set_self _)).trans (and_and_eq_zero (by decide) v)
  · split
    · exact clearAfter_ok hs
    · exact clearAfter_stop

theorem writeEmc_clear {st : State} (hs : st.reservedClear = true) (off : Nat) (v : Word) :
    ClearAfter (writeEmc off v st) := by
  unfold writeEmc
  split
  · exact clearAfter_stop
  · refine clearAfter_guard ?_
    split
    · exact clearAfter_ok hs
    · exact clearAfter_ok hs

theorem writeVic_clear {st : State} (hs : st.reservedClear = true) (off : Nat) (v : Word) :
    ClearAfter (writeVic off v st) := by
  unfold writeVic
  split
  · exact clearAfter_stop
  split
  · exact clearAfter_abort
  · exact clearAfter_ok hs

theorem writeDevice_clear {st : State} (hs : st.reservedClear = true) (r : Region) (p : Nat) (v : Word) :
    ClearAfter (writeDevice r p v st) := by
  rcases writeDevice_cases r p v st with h | ⟨off, h⟩ | ⟨off, h⟩ | ⟨off, h⟩ | ⟨-, off, h⟩ <;> rw [h]
  · exact clearAfter_stop
  · exact writePins_clear hs off v
  · exact writeSystem_clear hs off v
  · exact writeEmc_clear hs off v
  · exact writeVic_clear hs off v

/-! ### The step -/

theorem memWrite_clear {st : State} (hs : st.reservedClear = true) (a : Word) (w : Width) (v : Word) :
    ClearAfter (memWrite a w v st) := fun t h => by
  obtain ⟨p, q, -, -, -, -, rfl⟩ | ⟨p, armed, -, -, -, hd⟩ := memWrite_ok h
  · exact hs
  · exact writeDevice_clear (st := { st with sys := { st.sys with feedArmed := armed } }) hs (regionOf p) p v t hd

theorem Effects.reservedClear {s t : State} (h : Effects s t) (hs : s.reservedClear = true) : t.reservedClear = true := by
  induction h with
  | core h =>
    obtain ⟨_, _, _, _, _, _, rfl⟩ := h
    exact hs
  | read h =>
    obtain ⟨_, _, _, _, rfl⟩ := h
    exact hs
  | write h => exact memWrite_clear hs _ _ _ _ h
  | trans _ _ ih ih' => exact ih' (ih hs)

theorem wakeUp_clear {st : State} (hs : st.reservedClear = true) : (wakeUp st).reservedClear = true := by
  obtain ⟨hwake, hscs, -, hcfg, heff, hpconp, hpin⟩ := reservedClear_iff.mp hs
  unfold wakeUp
  split
  · exact hs
  · exact reservedClear_iff.mpr ⟨hwake, hscs, and_and_eq_zero (by decide) _, hcfg, heff, hpconp, hpin⟩

/-- The reset value of PLLCFG has no bit outside NSEL, which R632 leaves open. -/
theorem pllcfgReset_clear (nsel : Byte) : (0#8 ++ nsel ++ 0#16 : Word) &&& 0xFF008000 = 0 := by
  revert nsel
  decide

/-- The reset values have no reserved bit (R632), and PINSEL10 keeps a free bit 3 at most. -/
theorem takeReset_clear (cause : ResetCause) (st : State) : (takeReset cause st).reservedClear = true := by
  have hcfg := pllcfgReset_clear ((st.freeAt 36).extractLsb' 0 8)
  have hpconp : (0x04280FFE : Word) &&& 0x00078001 = 0 := by decide
  refine reservedClear_iff.mpr ⟨BitVec.zero_and, BitVec.zero_and, BitVec.zero_and, hcfg, hcfg, hpconp, ?_⟩
  exact (congrArg (· &&& _) (Vector.getElem_set_self _)).trans (and_and_eq_zero (by decide) (st.freeAt 37))

theorem boundary_done_clear {s t : State} (hs : s.reservedClear = true) (h : boundary s = .done t) :
    t.reservedClear = true := by
  obtain ⟨cause, -, -, rfl⟩ | ⟨-, rfl⟩ | ⟨e, -, rfl⟩ := boundary_done h
  · exact takeReset_clear cause _
  · exact hs
  · exact wakeUp_clear (st := atBoundary s) hs

/-- Settles O8: a boundary keeps the bits clear, and what runs after it is a chain of effects: an aborted fetch, a word passed
over, an instruction. -/
theorem stepKeepsReservedBitsClear : Obligations.StepKeepsReservedBitsClear := by
  unfold Obligations.StepKeepsReservedBitsClear
  intro s t hs h
  obtain hdone | ⟨s1, hrun, -, hnext⟩ := step_next h
  · exact boundary_done_clear hs hdone
  have hs1 : s1.reservedClear = true := by
    obtain ⟨rfl, -, -⟩ := boundary_run hrun
    exact wakeUp_clear (st := atBoundary s) hs
  refine Effects.reservedClear ?_ hs1
  have hmark : CoreChange s1 { s1 with userBankLdm := false } := ⟨_, _, _, _, _, _, rfl⟩
  obtain ⟨-, rfl⟩ | ⟨w, -, ⟨c, -, -, hskip⟩ | ⟨i, -, -, hexec⟩⟩ := hnext
  · exact .core (takeException_core _ s1)
  · exact .core (hmark.trans (advance_core hskip))
  · exact .trans (.core hmark) (exec_effects hexec)

end Sys2Proof.Machine
end

section
/-! PROOFS. The entry sequences (60_exceptions.md R436), what a boundary takes in and decides (R439, R440), halting and waking
(R492), and the reset of the running chip (70_reset_and_hazards.md R630 to R635). -/
namespace Sys2Proof.Machine

/-! ### Entry into the exceptions -/

/-- Settles O51: the offsets and vectors of the six exceptions are those of the entry sequence's table. -/
theorem exceptionEntry : Obligations.ExceptionEntry := by
  unfold Obligations.ExceptionEntry
  intro s next
  exact ⟨takeException_entered .undefinedInstruction s, takeException_entered .softwareInterrupt s,
    takeException_entered .prefetchAbort s, takeException_entered .dataAbort s, takeException_entered .irq s,
    takeException_entered .fiq s⟩

/-- Settles O43: SWI takes its exception, and neither its meaning nor its well-formedness looks at the immediate. -/
theorem softwareInterrupt : Obligations.SoftwareInterrupt := by
  unfold Obligations.SoftwareInterrupt
  intro c imm imm' s harm
  refine ⟨fun hready => ⟨takeException .softwareInterrupt s, ?_, ?_⟩, rfl⟩
  · exact exec_of_ready (act := fun st => .next (takeException .softwareInterrupt st)) hready rfl fun _ => rfl
  · have hentered := takeException_entered .softwareInterrupt s
    rwa [harm] at hentered

/-! ### The interrupt lines -/

/-- The FIQ line is up and not masked (R439). -/
def State.FiqAsked (st : State) : Prop := st.vicFiqStatus ≠ 0 ∧ st.fiqDisabled = false

/-- The IRQ line is up, since some channel is eligible, and not masked (R439, R461). -/
def State.IrqAsked (st : State) : Prop := (∃ i, st.eligible i = true) ∧ st.irqDisabled = false

theorem fiqLine_iff {st : State} : st.fiqLine = true ↔ st.vicFiqStatus ≠ 0 := bne_iff_ne

theorem irqLine_iff {st : State} : st.irqLine = true ↔ ∃ i, st.eligible i = true := by
  simp only [State.irqLine, List.any_eq_true, List.mem_finRange, true_and]

theorem fiqAsked_iff {st : State} : st.FiqAsked ↔ (st.fiqLine && !st.fiqDisabled) = true := by
  rw [Bool.and_eq_true, fiqLine_iff, Bool.not_eq_true']
  rfl

theorem irqAsked_iff {st : State} : st.IrqAsked ↔ (st.irqLine && !st.irqDisabled) = true := by
  rw [Bool.and_eq_true, irqLine_iff, Bool.not_eq_true']
  rfl

theorem interruptOrRun_fiq {st : State} (h : st.FiqAsked) : interruptOrRun st = .done (takeException .fiq st) := by
  rw [fiqAsked_iff] at h
  simp only [interruptOrRun, State.interruptTaken, h, if_true]

theorem interruptOrRun_irq {st : State} (hf : ¬ st.FiqAsked) (hi : st.IrqAsked) :
    interruptOrRun st = .done (takeException .irq st) := by
  rw [fiqAsked_iff] at hf
  rw [irqAsked_iff] at hi
  simp only [interruptOrRun, State.interruptTaken, hf, hi, Bool.false_eq_true, if_true, if_false]

theorem interruptOrRun_run {st : State} (hf : ¬ st.FiqAsked) (hi : ¬ st.IrqAsked) : interruptOrRun st = .run st := by
  rw [fiqAsked_iff] at hf
  rw [irqAsked_iff] at hi
  simp only [interruptOrRun, State.interruptTaken, hf, hi, Bool.false_eq_true, if_false]

/-! ### The boundary without a reset -/

theorem step_of_boundary_done {s t : State} (h : boundary s = .done t) : step s = .next t := by
  simp only [step, stepOnce, h]

theorem boundary_of_no_reset {s : State} (h : s.env.resetAsked = none) : boundary s = boundaryRunning (atBoundary s) := by
  simp only [boundary, h]

theorem boundaryRunning_halted {st : State} (h : st.staysHalted = true) : boundaryRunning st = .done st := if_pos h

theorem boundaryRunning_awake {st : State} (h : ¬ st.staysHalted = true) :
    boundaryRunning st = interruptOrRun (wakeUp st) := if_neg h

/-- A running machine only looks at its interrupts. -/
theorem boundary_running {s : State} (hreset : s.env.resetAsked = none) (hpower : s.power = .normal) :
    boundary s = interruptOrRun (atBoundary s) := by
  have hb : (atBoundary s).power = .normal := hpower
  have hawake : ¬ (atBoundary s).staysHalted = true := by simp only [State.staysHalted, hb, Bool.false_eq_true, not_false_eq_true]
  have hwake : wakeUp (atBoundary s) = atBoundary s := by simp only [wakeUp, hb]
  rw [boundary_of_no_reset hreset, boundaryRunning_awake hawake, hwake]

/-! ### The inputs -/

theorem advance_pinPrev (e : Environment) : e.advance.pinPrev = e.pins := by
  unfold Environment.advance
  split <;> rfl

theorem bits4_getLsbD (f : Nat → Bool) {k : Nat} (hk : k < 4) : (bits4 f).getLsbD k = f k := by
  unfold bits4
  obtain rfl | rfl | rfl | rfl : k = 0 ∨ k = 1 ∨ k = 2 ∨ k = 3 := by omega
  · exact (getLsbD_append_low _ _ 0 (by decide)).trans (bit_getLsbD _)
  · rw [getLsbD_append_high _ _ 1 (by decide)]
    exact (getLsbD_append_low _ _ 0 (by decide)).trans (bit_getLsbD _)
  · rw [getLsbD_append_high _ _ 2 (by decide), getLsbD_append_high _ _ 1 (by decide)]
    exact (getLsbD_append_low _ _ 0 (by decide)).trans (bit_getLsbD _)
  · rw [getLsbD_append_high _ _ 3 (by decide), getLsbD_append_high _ _ 2 (by decide),
      getLsbD_append_high _ _ 1 (by decide)]
    exact bit_getLsbD _

theorem eintActive_iff {st : State} {k : Nat} :
    st.eintActive k = true ↔ (st.pinConn.pinsel[4]).extractLsb' (20 + 2 * k) 2 = 1
      ∧ st.env.pins.getLsbD k = st.ext.extpolar.getLsbD k := by
  simp only [State.eintActive, State.eintSelected, Bool.and_eq_true, beq_iff_eq]

/-- A flag is set by the level or by the edge its EXTMODE bit asks for (R486, R488). -/
theorem extintSensed_iff {st : State} {k : Nat} (hk : k < 4) :
    st.extintSensed.getLsbD k = true ↔ st.ext.extint.getLsbD k = true
      ∨ (st.ext.extmode.getLsbD k = false ∧ st.eintActive k = true)
      ∨ (st.ext.extmode.getLsbD k = true ∧ st.eintActive k = true
        ∧ st.env.pins.getLsbD k ≠ st.env.pinPrev.getLsbD k) := by
  rw [State.extintSensed, bits4_getLsbD _ hk]
  cases hmode : st.ext.extmode.getLsbD k <;>
    simp only [State.eintEdge, Bool.or_eq_true, Bool.and_eq_true, bne_iff_ne, if_true, if_false, Bool.false_eq_true,
      Bool.true_eq_false, true_and, false_and, or_false, false_or]

/-- Settles O52: the boundary's state is the sampled and settled one, and a running machine decides on its interrupt lines. -/
theorem interruptsAtTheBoundary : Obligations.InterruptsAtTheBoundary := by
  unfold Obligations.InterruptsAtTheBoundary
  intro s b active
  refine ⟨fun hin => ?_, fun i rest hin => ?_, fun k hk => ?_, rfl, fun hreset hpower => ?_⟩
  · constructor
    · show s.env.advance = _
      simp only [Environment.advance, hin]
    · simp only [Environment.resetAsked, hin]
  · constructor
    · show s.env.advance = _
      simp only [Environment.advance, hin]
    · simp only [Environment.resetAsked, hin]
  · have hprev : (sampleInputs s).env.pinPrev = s.env.pins := advance_pinPrev s.env
    have hsensed := extintSensed_iff (st := sampleInputs s) hk
    rw [hprev, eintActive_iff] at hsensed
    exact hsensed
  · have hboundary := boundary_running hreset hpower
    have hnofiq (h : b.vicFiqStatus = 0 ∨ b.fiqDisabled = true) : ¬ b.FiqAsked := fun ⟨hline, hmask⟩ => by
      obtain h | h := h
      · exact hline h
      · rw [h] at hmask
        cases hmask
    refine ⟨fun hline hmask => ?_, fun hf hline hmask => ?_, fun hf hi => ?_⟩
    · exact ⟨_, step_of_boundary_done (hboundary.trans (interruptOrRun_fiq ⟨hline, hmask⟩)),
        takeException_entered .fiq b⟩
    · exact ⟨_, step_of_boundary_done (hboundary.trans (interruptOrRun_irq (hnofiq hf) ⟨hline, hmask⟩)),
        takeException_entered .irq b⟩
    · refine hboundary.trans (interruptOrRun_run (hnofiq hf) fun ⟨⟨i, hline⟩, hmask⟩ => ?_)
      obtain hi | hi := hi
      · rw [hi i] at hline
        cases hline
      · rw [hi] at hmask
        cases hmask

/-! ### Halting and waking -/

/-- Two sets of bits are apart if no bit is in both. -/
theorem and_eq_zero_iff {n : Nat} {a b : BitVec n} :
    a &&& b = 0 ↔ ∀ k, k < n → ¬ (a.getLsbD k = true ∧ b.getLsbD k = true) := by
  have hbit (k : Nat) : (a &&& b).getLsbD k = false ↔ ¬ (a.getLsbD k = true ∧ b.getLsbD k = true) := by
    rw [BitVec.getLsbD_and, ← Bool.not_eq_true, Bool.and_eq_true]
  constructor
  · intro h k _
    rw [← hbit, h]
    exact BitVec.getLsbD_zero
  · intro h
    refine BitVec.eq_of_getLsbD_eq fun k hk => ?_
    rw [(hbit k).mpr (h k hk)]
    exact BitVec.getLsbD_zero.symm

/-- One flag put at bit `j` of a word. -/
theorem flagAt_getLsbD {n k : Nat} (b : Bool) (j : Nat) (hk : k < n) :
    ((BitVec.ofBool b).setWidth n <<< j).getLsbD k = (decide (k = j) && b) := by
  rw [BitVec.getLsbD_shiftLeft, BitVec.getLsbD_setWidth]
  obtain hlt | rfl | hgt : k < j ∨ k = j ∨ j < k := by omega
  · simp [hlt, Nat.ne_of_lt hlt]
  · simp [hk, Nat.zero_lt_of_lt hk]
  · have hne : k - j ≠ 0 := by omega
    simp [BitVec.getLsbD_ofBool, hne, Nat.ne_of_gt hgt]

/-- The sources by bit of INTWAKE (R487); the brown-out line counts while its detector works (R492). -/
def State.WakesBy (st : State) (k : Nat) : Prop :=
  (k < 4 ∧ st.ext.extint.getLsbD k = true) ∨ (k = 4 ∧ st.env.lines.getLsbD 21 = true)
  ∨ (k = 5 ∧ st.env.lines.getLsbD 22 = true) ∨ (k = 6 ∧ st.env.lines.getLsbD 23 = true)
  ∨ (k = 7 ∧ st.env.lines.getLsbD 17 = true)
  ∨ (k = 14 ∧ st.env.lines.getLsbD 20 = true ∧ st.sys.pcon.getLsbD 3 = false
      ∧ ¬ (st.sys.pcon.getLsbD 2 = true ∧ st.power = .powerDown))
  ∨ (k = 15 ∧ st.env.lines.getLsbD 13 = true)

theorem bodDetects_iff {st : State} :
    st.bodDetects = true ↔ st.sys.pcon.getLsbD 3 = false
      ∧ ¬ (st.sys.pcon.getLsbD 2 = true ∧ st.power = .powerDown) := by
  simp only [State.bodDetects, Bool.not_eq_true', Bool.or_eq_false_iff, Bool.and_eq_false_iff, beq_eq_false_iff_ne,
    not_and_or, Bool.not_eq_true, ne_eq]

theorem blockLines_of_ne {st : State} {k : Nat} (hk : k < 32) (hne : k ≠ 20) :
    st.blockLines.getLsbD k = st.env.lines.getLsbD k := by
  rw [st.blockLines_getLsbD hk, decide_eq_true hne, Bool.true_or, Bool.and_true]

theorem blockLines_brownOut {st : State} :
    st.blockLines.getLsbD 20 = (st.env.lines.getLsbD 20 && st.bodDetects) := by
  rw [st.blockLines_getLsbD (by decide), decide_eq_false (by decide), Bool.false_or]

theorem wakeSources_iff {st : State} {k : Nat} (hk : k < 16) : st.wakeSources.getLsbD k = true ↔ st.WakesBy k := by
  have hext : st.ext.extint.getLsbD k = true ↔ k < 4 ∧ st.ext.extint.getLsbD k = true :=
    ⟨fun h => ⟨BitVec.lt_of_getLsbD h, h⟩, And.right⟩
  simp only [State.wakeSources, State.WakesBy, BitVec.getLsbD_or, BitVec.getLsbD_setWidth, flagAt_getLsbD _ _ hk,
    decide_eq_true hk, Bool.true_and, blockLines_of_ne (by decide : 21 < 32) (by decide),
    blockLines_of_ne (by decide : 22 < 32) (by decide), blockLines_of_ne (by decide : 23 < 32) (by decide),
    blockLines_of_ne (by decide : 17 < 32) (by decide), blockLines_of_ne (by decide : 13 < 32) (by decide),
    blockLines_brownOut, Bool.or_eq_true, Bool.and_eq_true, decide_eq_true_eq, bodDetects_iff, or_assoc, ← hext]

/-- When a halted machine stays halted: in idle without an enabled interrupt, else without an enabled source (D25). -/
def State.Quiet (st : State) : Prop :=
  (st.power = .idle ∧ st.vicIrqStatus = 0 ∧ st.vicFiqStatus = 0)
  ∨ (st.power ≠ .idle ∧ ∀ k, k < 16 → ¬ (st.ext.intwake.getLsbD k = true ∧ st.WakesBy k))

theorem noSource_iff {st : State} :
    st.ext.intwake &&& st.wakeSources = 0
      ↔ ∀ k, k < 16 → ¬ (st.ext.intwake.getLsbD k = true ∧ st.WakesBy k) := by
  rw [and_eq_zero_iff]
  exact forall₂_congr fun k hk => by rw [wakeSources_iff hk]

theorem staysHalted_iff {st : State} (h : st.power ≠ .normal) : st.staysHalted = true ↔ st.Quiet := by
  cases hpower : st.power with
  | normal => exact absurd hpower h
  | idle =>
    simp only [State.staysHalted, State.Quiet, hpower, Bool.and_eq_true, beq_iff_eq, true_and, ne_eq, not_true_eq_false,
      false_and, or_false]
  | sleep | powerDown =>
    simp only [State.staysHalted, State.Quiet, hpower, beq_iff_eq, noSource_iff, reduceCtorEq, ne_eq, not_false_eq_true,
      true_and, false_and, false_or]

theorem wakeUp_of_halted {st : State} (h : st.power ≠ .normal) :
    wakeUp st = { st with power := .normal, sys := { st.sys with pcon := st.sys.pcon &&& 0x1C } } := by
  unfold wakeUp
  split
  · next hpower => exact absurd hpower h
  · rfl

/-- Settles O53: a quiet boundary ends the step; otherwise the machine wakes, and a woken machine decides as a running one. -/
theorem haltingAndWaking : Obligations.HaltingAndWaking := by
  unfold Obligations.HaltingAndWaking
  intro s hreset hpower b woken active quiet fiq irq
  have hb : b.power ≠ .normal := hpower
  have hboundary : boundary s = boundaryRunning b := boundary_of_no_reset hreset
  have hwakes (h : ¬ quiet) : boundary s = interruptOrRun woken := by
    rw [hboundary, boundaryRunning_awake (mt (staysHalted_iff hb).mp h), wakeUp_of_halted hb]
  refine ⟨fun h => ?_, fun h hf hi => ?_, fun h hf => ?_, fun h hf hi => ?_⟩
  · exact step_of_boundary_done (hboundary.trans (boundaryRunning_halted ((staysHalted_iff hb).mpr h)))
  · exact (hwakes h).trans (interruptOrRun_run hf hi)
  · exact step_of_boundary_done ((hwakes h).trans (interruptOrRun_fiq hf))
  · exact step_of_boundary_done ((hwakes h).trans (interruptOrRun_irq hf hi))

/-! ### The reset of the running chip -/

/-- A brown-out resets while its detector works and PCON.BORD is 0; the other causes always do (R630, R492). -/
theorem resetEffective_of {cause : ResetCause} {st : State}
    (h : cause = .brownOut → st.sys.pcon.getLsbD 3 = false ∧ st.sys.pcon.getLsbD 4 = false
      ∧ (st.power = .powerDown → st.sys.pcon.getLsbD 2 = false)) : resetEffective cause st = true := by
  cases cause with
  | external | watchdog => rfl
  | brownOut =>
    obtain ⟨hbogd, hbord, hbodpdm⟩ := h rfl
    have hdetects : st.bodDetects = true := bodDetects_iff.mpr ⟨hbogd, fun ⟨hm, hp⟩ => by
      rw [hbodpdm hp] at hm
      cases hm⟩
    simp only [resetEffective, hdetects, hbord, Bool.not_false, Bool.and_self]

theorem boundary_of_reset {s : State} {cause : ResetCause} (h : s.env.resetAsked = some cause)
    (he : resetEffective cause (atBoundary s) = true) : boundary s = .done (takeReset cause (atBoundary s)) := by
  simp only [boundary, h, he, if_true]

/-- The low byte of the CPSR after reset: Supervisor mode, ARM state, I and F set, whatever the flags (R631). -/
theorem takeReset_cpsr_low (cause : ResetCause) (st : State) :
    (takeReset cause st).mode = .supervisor ∧ (takeReset cause st).thumb = false
      ∧ (takeReset cause st).irqDisabled = true ∧ (takeReset cause st).fiqDisabled = true := by
  have hlow {k : Nat} (hk : k < 8) : (takeReset cause st).cpsr.getLsbD k = (0xD3#8).getLsbD k :=
    getLsbD_append_low _ _ k hk
  have hmode : modeOf (takeReset cause st).cpsr = some .supervisor :=
    congrArg Mode.ofBits (extract_append_low ((st.freeAt 30).extractLsb' 8 24) 0xD3#8 0 5 (by decide))
  exact ⟨by rw [State.mode, hmode]; rfl, hlow (by decide), hlow (by decide), hlow (by decide)⟩

theorem takeReset_pinsel_other (cause : ResetCause) (st : State) {n : Fin 11} (h : n ≠ 10) :
    (takeReset cause st).pinConn.pinsel[n] = 0 := by
  have hne : 10 ≠ n.val := fun he => h (Fin.ext he.symm)
  exact (Vector.getElem_set_ne (by decide) n.isLt hne).trans (Vector.getElem_replicate _)

/-- The reset values that depend on nothing but the cause (R631 to R635). -/
theorem takeReset_fields (cause : ResetCause) (st : State) :
    (takeReset cause st).pc = 0 ∧ (takeReset cause st).power = .normal ∧ (takeReset cause st).vic = vicReset
      ∧ (takeReset cause st).ext = extReset ∧ (∃ nsel, (takeReset cause st).sys = sysReset startMap nsel)
      ∧ (takeReset cause st).pinConn.pinmode = Vector.replicate 10 0
      ∧ (takeReset cause st).emc = (if cause ≠ .brownOut ∧ st.sys.scs.getLsbD 1 = true then st.emc else emcReset)
      ∧ (takeReset cause st).userBankLdm = false ∧ (takeReset cause st).env.pinPrev = (takeReset cause st).env.pins := by
  simp only [takeReset, exists_apply_eq_apply', and_self]

/-- Settles O54: the cause is effective, so the step is the reset, field by field. -/
theorem resetOfTheRunningChip : Obligations.ResetOfTheRunningChip := by
  unfold Obligations.ResetOfTheRunningChip
  intro s cause hasked hsettings
  have heffective : resetEffective cause (atBoundary s) = true := resetEffective_of (st := atBoundary s) hsettings
  obtain ⟨hmode, hthumb, hirq, hfiq⟩ := takeReset_cpsr_low cause (atBoundary s)
  obtain ⟨-, -, -, -, -, -, hpinsel10⟩ := reservedClear_iff.mp (takeReset_clear cause (atBoundary s))
  obtain ⟨hpc, hpower, hvic, hext, ⟨nsel, hsys⟩, hpinmode, hemc, hmark, hpins⟩ := takeReset_fields cause (atBoundary s)
  refine ⟨_, step_of_boundary_done (boundary_of_reset hasked heffective), hmode, hthumb, hirq, hfiq, hpc, hpower,
    takeReset_mem _ _, takeReset_sramPending _ _, hvic, hext, ⟨nsel, hsys⟩, fun n hn => takeReset_pinsel_other cause _ hn,
    hpinsel10, fun n => ?_, hemc, hmark, hpins⟩
  rw [hpinmode]
  exact Vector.getElem_replicate _

end Sys2Proof.Machine
end

section
/-! PROOFS. A word access to the register blocks (20_memory.md R75 to R77, R81 to R84): which block an address reaches, and what
the access does there, the PLL feed included (61_platform_devices.md R556). -/
namespace Sys2Proof.Machine

/-! ### The blocks of the address map -/

/-- Above the external banks the map holds register blocks and holes only (R82, R83). -/
theorem regionOf_blocks {p : Nat} (h : 0xE0000000 ≤ p) :
    regionOf p
      = if p < 0xE0200000 then
          if apbPopulated ((p - 0xE0000000) / 0x4000) then .apb ((p - 0xE0000000) / 0x4000) else .reserved
        else if 0xFFE00000 ≤ p ∧ p < 0xFFE14000 then .ahb ((p - 0xFFE00000) / 0x4000)
        else if 0xFFFFC000 ≤ p ∧ p < 0xFFFFF000 then .ahb 127
        else if 0xFFFFF000 ≤ p ∧ p < 0x100000000 then .vic
        else .reserved := by
  have hb : bootBase = 0x7FFFE000 := rfl
  simp only [regionOf, flashSize, hb]
  rw [if_neg (by omega), if_neg (by omega), if_neg (by omega), if_neg (by omega), if_neg (by omega), if_neg (by omega),
    if_neg (by omega), if_neg (by omega)]
  simp only [h, true_and]

theorem regionOf_apb {p slot : Nat} (hp : (p - 0xE0000000) / 0x4000 = slot) (h : 0xE0000000 ≤ p ∧ p < 0xE0200000)
    (hslot : apbPopulated slot = true) : regionOf p = .apb slot := by
  rw [regionOf_blocks h.1, if_pos h.2, hp, if_pos hslot]

theorem regionOf_system {p : Nat} (h : 0xE01FC000 ≤ p ∧ p < 0xE0200000) : regionOf p = .apb 127 :=
  regionOf_apb (by omega) (by omega) rfl

theorem regionOf_pins {p : Nat} (h : 0xE002C000 ≤ p ∧ p < 0xE0030000) : regionOf p = .apb 11 :=
  regionOf_apb (by omega) (by omega) rfl

theorem regionOf_emc {p : Nat} (h : 0xFFE08000 ≤ p ∧ p < 0xFFE0C000) : regionOf p = .ahb 2 := by
  rw [regionOf_blocks (by omega), if_neg (by omega), if_pos (by omega), show (p - 0xFFE00000) / 0x4000 = 2 by omega]

theorem regionOf_vic {p : Nat} (h : 0xFFFFF000 ≤ p ∧ p < 0x100000000) : regionOf p = .vic := by
  rw [regionOf_blocks (by omega), if_neg (by omega), if_neg (by omega), if_neg (by omega), if_pos h]

/-! ### Accesses to a block -/

/-- `st` with no feed sequence begun (R556). -/
def State.disarmed (st : State) : State := { st with sys := { st.sys with feedArmed := false } }

theorem disarmFeed_of_apb {p : Nat} (h : 0xE0000000 ≤ p ∧ p < 0xE0200000) (st : State) :
    disarmFeed p st = st.disarmed := by
  simp only [disarmFeed, h.1, h.2, decide_true, Bool.and_self, Bool.not_true, Bool.and_false]
  rfl

/-- A whole word read from a device above the remapped addresses. -/
theorem memRead_register {a : Word} {r : Region} (st : State) (hr : regionOf a.toNat = r) (hd : r.kind = .device)
    (ha : 0x40 ≤ a.toNat ∧ a.toNat % 4 = 0) :
    memRead a .word st = readDevice r a.toNat (disarmFeed a.toNat st) := by
  have hw : wholeWord .word a.toNat = true := by simp only [wholeWord, Width.bytes, ha.2, beq_self_eq_true, Bool.and_self]
  rw [memRead_device (remap_high _ a ha.1) (by rw [hr, hd]) hw, hr]

/-- A whole word written to a device above the remapped addresses, PLLFEED apart. -/
theorem memWrite_register {a : Word} {r : Region} (v : Word) (st : State) (hr : regionOf a.toNat = r)
    (hd : r.kind = .device) (ha : 0x40 ≤ a.toNat ∧ a.toNat % 4 = 0) (hfeed : a.toNat ≠ pllfeedAddress) :
    memWrite a .word v st = writeDevice r a.toNat v (disarmFeed a.toNat st) := by
  have hw : wholeWord .word a.toNat = true := by simp only [wholeWord, Width.bytes, ha.2, beq_self_eq_true, Bool.and_self]
  rw [memWrite_device (remap_high _ a ha.1) (by rw [hr, hd]) hw, hr, if_neg hfeed]

/-- The word at `a` is at offset `off` of the register block that begins at `base` and is `size` bytes long. -/
abbrev InBlock (base size : Nat) (a : Word) (off : Nat) : Prop := a.toNat = base + off ∧ off < size ∧ off % 4 = 0

/-- The system control block (R547). -/
abbrev InSystem (a : Word) (off : Nat) : Prop := InBlock 0xE01FC000 0x4000 a off

/-- The pin connect block (R620). -/
abbrev InPins (a : Word) (off : Nat) : Prop := InBlock 0xE002C000 0x4000 a off

/-- The block of the EMC (R546). -/
abbrev InEmc (a : Word) (off : Nat) : Prop := InBlock 0xFFE08000 0x4000 a off

/-- The block of the VIC (R466). -/
abbrev InVic (a : Word) (off : Nat) : Prop := InBlock 0xFFFFF000 0x1000 a off

section blocks
variable {a : Word} {off : Nat} (v : Word) (st : State)

theorem memRead_system (h : InSystem a off) : memRead a .word st = readSystem off st.disarmed := by
  obtain ⟨ha, hoff, h4⟩ := h
  rw [memRead_register st (regionOf_system (by omega)) rfl (by omega), disarmFeed_of_apb (by omega), ha]
  simp only [readDevice, Nat.add_sub_cancel_left, Nat.reduceEqDiff, if_true, if_false]

theorem memWrite_system (h : InSystem a off) (hfeed : off ≠ 0x8C) :
    memWrite a .word v st = writeSystem off v st.disarmed := by
  obtain ⟨ha, hoff, h4⟩ := h
  have hne : a.toNat ≠ pllfeedAddress := by rw [pllfeedAddress]; omega
  rw [memWrite_register v st (regionOf_system (by omega)) rfl (by omega) hne, disarmFeed_of_apb (by omega), ha]
  simp only [writeDevice, Nat.add_sub_cancel_left, Nat.reduceEqDiff, if_true, if_false]

/-- The one APB write that does not break a feed sequence (R556). -/
theorem memWrite_pllfeed : memWrite 0xE01FC08C .word v st = .ok () (writePllfeed v st) := by
  have hr : regionOf 0xE01FC08C = .apb 127 := regionOf_system (by decide)
  rw [memWrite_device (p := 0xE01FC08C) (remap_high _ _ (by decide)) (by rw [hr]; rfl) rfl, hr]
  rfl

theorem memRead_pins (h : InPins a off) : memRead a .word st = readPins off st.disarmed := by
  obtain ⟨ha, hoff, h4⟩ := h
  rw [memRead_register st (regionOf_pins (by omega)) rfl (by omega), disarmFeed_of_apb (by omega), ha]
  simp only [readDevice, Nat.add_sub_cancel_left, if_true]

theorem memWrite_pins (h : InPins a off) : memWrite a .word v st = writePins off v st.disarmed := by
  obtain ⟨ha, hoff, h4⟩ := h
  have hne : a.toNat ≠ pllfeedAddress := by rw [pllfeedAddress]; omega
  rw [memWrite_register v st (regionOf_pins (by omega)) rfl (by omega) hne, disarmFeed_of_apb (by omega), ha]
  simp only [writeDevice, Nat.add_sub_cancel_left, if_true]

theorem memRead_emc (h : InEmc a off) : memRead a .word st = readEmc off st := by
  obtain ⟨ha, hoff, h4⟩ := h
  rw [memRead_register st (regionOf_emc (by omega)) rfl (by omega), disarmFeed_of_not_apb (by omega), ha]
  simp only [readDevice, Nat.add_sub_cancel_left, if_true]

theorem memWrite_emc (h : InEmc a off) : memWrite a .word v st = writeEmc off v st := by
  obtain ⟨ha, hoff, h4⟩ := h
  have hne : a.toNat ≠ pllfeedAddress := by rw [pllfeedAddress]; omega
  rw [memWrite_register v st (regionOf_emc (by omega)) rfl (by omega) hne, disarmFeed_of_not_apb (by omega), ha]
  simp only [writeDevice, Nat.add_sub_cancel_left, if_true]

theorem memRead_vic (h : InVic a off) : memRead a .word st = readVic off st := by
  obtain ⟨ha, hoff, h4⟩ := h
  rw [memRead_register st (regionOf_vic (by omega)) rfl (by omega), disarmFeed_of_not_apb (by omega), ha]
  simp only [readDevice, Nat.add_sub_cancel_left]

theorem memWrite_vic (h : InVic a off) : memWrite a .word v st = writeVic off v st := by
  obtain ⟨ha, hoff, h4⟩ := h
  have hne : a.toNat ≠ pllfeedAddress := by rw [pllfeedAddress]; omega
  rw [memWrite_register v st (regionOf_vic (by omega)) rfl (by omega) hne, disarmFeed_of_not_apb (by omega), ha]
  simp only [writeDevice, Nat.add_sub_cancel_left]

end blocks

/-- The address of the `n`-th word after `base`. -/
theorem toNat_wordIndex {base : Word} {n : Nat} (h : base.toNat + 4 * n < 2 ^ 32) :
    (base + 4 * BitVec.ofNat 32 n).toNat = base.toNat + 4 * n := by
  rw [BitVec.toNat_add, BitVec.toNat_mul, BitVec.toNat_ofNat, show ((4 : Word)).toNat = 4 from rfl]
  omega

/-! ### What a read determines -/

/-- A register read gives the described bits of the register, and draws at most one free value for the others (D26). -/
theorem readBits_spec (mask v : Word) (st : State) :
    ∃ y idx, readBits mask v st = .ok y { st with freeIdx := idx }
      ∧ ∀ k, mask.getLsbD k = true → y.getLsbD k = v.getLsbD k := by
  unfold readBits
  split
  · exact ⟨v, st.freeIdx, rfl, fun _ _ => rfl⟩
  · refine ⟨_, st.freeIdx + 1, rfl, fun k hk => ?_⟩
    rw [BitVec.getLsbD_or, BitVec.getLsbD_and, BitVec.getLsbD_and, BitVec.getLsbD_not, hk, Bool.not_true, Bool.and_false,
      Bool.and_false, Bool.or_false, Bool.and_true]

/-- Words that agree in the bits of `mask` agree under any part of it. -/
theorem and_eq_and_of_bits {mask described x y : Word} (h : ∀ k, mask.getLsbD k = true → y.getLsbD k = x.getLsbD k)
    (hsub : described &&& mask = described) : y &&& described = x &&& described := by
  refine BitVec.eq_of_getLsbD_eq fun k _ => ?_
  rw [BitVec.getLsbD_and, BitVec.getLsbD_and]
  cases hd : described.getLsbD k with
  | false => rw [Bool.and_false, Bool.and_false]
  | true =>
    rw [← hsub, BitVec.getLsbD_and, Bool.and_eq_true] at hd
    rw [h k hd.2]

/-- Words that agree in the bits of `mask` agree in any field inside it. -/
theorem extract_eq_of_bits {mask x y : Word} (h : ∀ k, mask.getLsbD k = true → y.getLsbD k = x.getLsbD k) {lo n : Nat}
    (hsub : ∀ k, k < n → mask.getLsbD (lo + k) = true) : y.extractLsb' lo n = x.extractLsb' lo n := by
  refine BitVec.eq_of_getLsbD_eq fun k hk => ?_
  rw [BitVec.getLsbD_extractLsb', BitVec.getLsbD_extractLsb', h _ (hsub k hk)]

end Sys2Proof.Machine
end

section
/-! PROOFS. The vectored interrupt controller (60_exceptions.md R461 to R474): the access to its registers, its words and its
winner. -/
namespace Sys2Proof.Machine

/-! ### Access to the registers -/

theorem vicForbids_iff {st : State} {r : VicReg} :
    st.vicForbids r = true ↔ st.mode = .user ∧ (st.vic.protection = true ∨ r = .protection) := by
  simp only [State.vicForbids, Mode.privileged, Bool.and_eq_true, Bool.not_eq_true', bne_eq_false_iff_eq,
    Bool.or_eq_true, beq_iff_eq]

/-- VICProtection at 0 opens every register but itself to User mode (R478). -/
theorem vicForbids_open {st : State} {r : VicReg} (h : st.mode ≠ .user ∨ st.vic.protection = false)
    (hr : r ≠ .protection) : st.vicForbids r = false := by
  rw [← Bool.not_eq_true, vicForbids_iff]
  rintro ⟨hu, hp | hp⟩
  · obtain h | h := h
    · exact h hu
    · rw [h] at hp
      cases hp
  · exact hr hp

theorem vicForbids_privileged {st : State} (r : VicReg) (h : st.mode ≠ .user) : st.vicForbids r = false := by
  rw [← Bool.not_eq_true, vicForbids_iff]
  exact fun hu => h hu.1

/-- The word at `a` is register `r` of the VIC. -/
abbrev VicRegAt (a : Word) (r : VicReg) : Prop := ∃ off, InVic a off ∧ VicReg.ofOffset off = some r

section registers
variable {a : Word} {r : VicReg} (v : Word) {st : State}

theorem memRead_vicReg (h : VicRegAt a r) (hopen : st.vicForbids r = false) : memRead a .word st = readVicReg r st := by
  obtain ⟨off, hin, hr⟩ := h
  rw [memRead_vic st hin, readVic, hr]
  simp only [hopen, Bool.false_eq_true, if_false]

theorem memWrite_vicReg (h : VicRegAt a r) (hopen : st.vicForbids r = false) :
    memWrite a .word v st = .ok () { st with vic := writeVicReg r v st.vic } := by
  obtain ⟨off, hin, hr⟩ := h
  rw [memWrite_vic v st hin, writeVic, hr]
  simp only [hopen, Bool.false_eq_true, if_false]

/-- A forbidden access raises Data Abort and changes nothing (R478). -/
theorem access_vicReg_forbidden (h : VicRegAt a r) (hforbid : st.vicForbids r = true) :
    memRead a .word st = .abort st ∧ memWrite a .word v st = .abort st := by
  obtain ⟨off, hin, hr⟩ := h
  rw [memRead_vic st hin, memWrite_vic v st hin, readVic, writeVic, hr]
  simp only [hforbid, if_true, and_self]

end registers

theorem vicRegAt_intSelect : VicRegAt 0xFFFFF00C .intSelect := ⟨0x00C, by decide, rfl⟩
theorem vicRegAt_intEnable : VicRegAt 0xFFFFF010 .intEnable := ⟨0x010, by decide, rfl⟩
theorem vicRegAt_intEnClr : VicRegAt 0xFFFFF014 .intEnClr := ⟨0x014, by decide, rfl⟩
theorem vicRegAt_softInt : VicRegAt 0xFFFFF018 .softInt := ⟨0x018, by decide, rfl⟩
theorem vicRegAt_softIntClear : VicRegAt 0xFFFFF01C .softIntClear := ⟨0x01C, by decide, rfl⟩
theorem vicRegAt_protection : VicRegAt 0xFFFFF020 .protection := ⟨0x020, by decide, rfl⟩
theorem vicRegAt_swPriorityMask : VicRegAt 0xFFFFF024 .swPriorityMask := ⟨0x024, by decide, rfl⟩
theorem vicRegAt_address : VicRegAt 0xFFFFFF00 .address := ⟨0xF00, by decide, rfl⟩

/-- Settles O55: the registers are open to the access, and each stores by its own rule. -/
theorem vicRegisterWrites : Obligations.VicRegisterWrites := by
  unfold Obligations.VicRegisterWrites
  intro s v hallowed
  have hopen {r : VicReg} (hr : r ≠ .protection) : s.vicForbids r = false := vicForbids_open hallowed hr
  exact ⟨memWrite_vicReg v vicRegAt_softInt (hopen (by decide)),
    memWrite_vicReg v vicRegAt_softIntClear (hopen (by decide)),
    memWrite_vicReg v vicRegAt_intEnable (hopen (by decide)),
    memWrite_vicReg v vicRegAt_intEnClr (hopen (by decide)),
    memWrite_vicReg v vicRegAt_intSelect (hopen (by decide)),
    memRead_vicReg vicRegAt_softInt (hopen (by decide)),
    memRead_vicReg vicRegAt_intEnable (hopen (by decide)),
    memRead_vicReg vicRegAt_intSelect (hopen (by decide))⟩

/-! ### The words -/

/-- The lines of the blocks that reach the requests as they stand: not 1, not PLOCK's, not those of EXTINT 0 to 2 (R462).
(The model's mask is the cast of a number.) -/
theorem blockLinesMask_getLsbD {k : Nat} (hk : k < 32) :
    ((0xFFFE2FFD : Nat) : Word).getLsbD k = decide (k ≠ 1 ∧ k ≠ 12 ∧ k ≠ 14 ∧ k ≠ 15 ∧ k ≠ 16) := by
  revert k
  decide

theorem plock_iff {s : SysControl} : s.plock = true ↔ s.pllConEff.getLsbD 0 = true ∧ s.pllWait = 0 := by
  simp only [SysControl.plock, Bool.and_eq_true, beq_iff_eq]

theorem requests_iff (s : State) {k : Nat} (hk : k < 32) : s.requests.getLsbD k = true ↔
    (k = 12 ∧ s.sys.pllConEff.getLsbD 0 = true ∧ s.sys.pllWait = 0)
    ∨ (14 ≤ k ∧ k ≤ 17 ∧ s.ext.extint.getLsbD (k - 14) = true)
    ∨ (k ≠ 1 ∧ k ≠ 12 ∧ k ≠ 14 ∧ k ≠ 15 ∧ k ≠ 16 ∧ s.env.lines.getLsbD k = true
      ∧ (k = 20 → s.sys.pcon.getLsbD 3 = false ∧ ¬ (s.sys.pcon.getLsbD 2 = true ∧ s.power = .powerDown))) := by
  have hext : (s.ext.extint.setWidth 32 <<< 14).getLsbD k = true
      ↔ 14 ≤ k ∧ k ≤ 17 ∧ s.ext.extint.getLsbD (k - 14) = true := by
    rw [BitVec.getLsbD_shiftLeft, BitVec.getLsbD_setWidth]
    constructor
    · intro h
      simp only [Bool.and_eq_true, Bool.not_eq_true', decide_eq_true_eq, decide_eq_false_iff_not] at h
      have hlt : k - 14 < 4 := BitVec.lt_of_getLsbD h.2.2
      exact ⟨by omega, by omega, h.2.2⟩
    · rintro ⟨hlo, hhi, h⟩
      simp only [Bool.and_eq_true, Bool.not_eq_true', decide_eq_true_eq, decide_eq_false_iff_not]
      exact ⟨⟨hk, by omega⟩, by omega, h⟩
  have hline : s.blockLines.getLsbD k = true ↔ s.env.lines.getLsbD k = true
      ∧ (k = 20 → s.sys.pcon.getLsbD 3 = false ∧ ¬ (s.sys.pcon.getLsbD 2 = true ∧ s.power = .powerDown)) := by
    rw [s.blockLines_getLsbD hk, Bool.and_eq_true, Bool.or_eq_true, decide_eq_true_eq, bodDetects_iff, ne_eq,
      imp_iff_not_or]
  rw [State.requests, BitVec.getLsbD_or, BitVec.getLsbD_or, BitVec.getLsbD_and, flagAt_getLsbD _ _ hk,
    blockLinesMask_getLsbD hk, Bool.or_eq_true, Bool.or_eq_true, Bool.and_eq_true, Bool.and_eq_true, hext, hline,
    plock_iff, decide_eq_true_eq, decide_eq_true_eq]
  constructor
  · rintro ((⟨⟨hl, hd⟩, h1, h12, h14, h15, h16⟩ | hpll) | he)
    · exact .inr (.inr ⟨h1, h12, h14, h15, h16, hl, hd⟩)
    · exact .inl hpll
    · exact .inr (.inl he)
  · rintro (hpll | he | ⟨h1, h12, h14, h15, h16, hl, hd⟩)
    · exact .inl (.inr hpll)
    · exact .inr he
    · exact .inl (.inl ⟨⟨hl, hd⟩, h1, h12, h14, h15, h16⟩)

theorem vicWords_getLsbD (s : State) {k : Nat} (hk : k < 32) :
    s.vicRaw.getLsbD k = (s.requests.getLsbD k || s.vic.softInt.getLsbD k)
    ∧ s.vicIrqStatus.getLsbD k = (s.vicRaw.getLsbD k && s.vic.intEnable.getLsbD k && !s.vic.intSelect.getLsbD k)
    ∧ s.vicFiqStatus.getLsbD k = (s.vicRaw.getLsbD k && s.vic.intEnable.getLsbD k && s.vic.intSelect.getLsbD k) := by
  refine ⟨BitVec.getLsbD_or, ?_, ?_⟩
  · rw [State.vicIrqStatus, BitVec.getLsbD_and, BitVec.getLsbD_and, BitVec.getLsbD_not, decide_eq_true hk, Bool.true_and]
  · rw [State.vicFiqStatus, BitVec.getLsbD_and, BitVec.getLsbD_and]

/-! ### The winner -/

theorem aboveService_iff {v : Vic} {p : BitVec 4} :
    v.aboveService p = true ↔ ∀ l, l < 16 → v.inService.getLsbD l = true → p.toNat < l := by
  simp only [Vic.aboveService, List.all_eq_true, List.mem_range, Bool.or_eq_true, Bool.not_eq_true', decide_eq_true_eq,
    ← Bool.not_eq_true, imp_iff_not_or]

theorem eligible_iff {s : State} {i : Fin 32} :
    s.eligible i = true ↔ s.vicIrqStatus.getLsbD i.val = true
      ∧ s.vic.swPriorityMask.getLsbD (s.vic.vectPriority[i]).toNat = true
      ∧ ∀ l, l < 16 → s.vic.inService.getLsbD l = true → (s.vic.vectPriority[i]).toNat < l := by
  rw [State.eligible, Bool.and_eq_true, Bool.and_eq_true, aboveService_iff, and_assoc]

/-- Channel `w` is served before channel `i`: its pair (priority, channel) is no larger (R463). -/
def State.ServedBefore (st : State) (w i : Fin 32) : Prop :=
  (st.vic.vectPriority[w]).toNat < (st.vic.vectPriority[i]).toNat
    ∨ ((st.vic.vectPriority[w]).toNat = (st.vic.vectPriority[i]).toNat ∧ w ≤ i)

/-- One channel of the search for the winner. -/
def State.winnerStep (st : State) (best : Option (Fin 32)) (i : Fin 32) : Option (Fin 32) :=
  if st.eligible i then
    match best with
    | none => some i
    | some w => if st.vic.vectPriority[i] < st.vic.vectPriority[w] then some i else some w
  else best

theorem irqWinner_eq_foldl (st : State) : st.irqWinner = (List.finRange 32).foldl st.winnerStep none := rfl

/-- `best` is the winner among the channels `seen`. -/
def State.WinnerOf (st : State) (seen : List (Fin 32)) : Option (Fin 32) → Prop
  | none => ∀ i ∈ seen, st.eligible i = false
  | some w => st.eligible w = true ∧ w ∈ seen ∧ ∀ i ∈ seen, st.eligible i = true → st.ServedBefore w i

/-- The next channel wins against the earlier ones only by a strictly smaller priority number. -/
theorem winnerOf_step {st : State} {seen : List (Fin 32)} {best : Option (Fin 32)} {i : Fin 32}
    (h : st.WinnerOf seen best) (hlater : ∀ j ∈ seen, j < i) : st.WinnerOf (seen ++ [i]) (st.winnerStep best i) := by
  unfold State.winnerStep
  have hlast {w : Fin 32} (hw : st.ServedBefore w i) (hseen : ∀ j ∈ seen, st.eligible j = true → st.ServedBefore w j) :
      ∀ j ∈ seen ++ [i], st.eligible j = true → st.ServedBefore w j := fun j hj he => by
    obtain hj | hj := List.mem_append.mp hj
    · exact hseen j hj he
    · obtain rfl := List.mem_singleton.mp hj
      exact hw
  have hself : st.ServedBefore i i := .inr ⟨rfl, le_refl i⟩
  split
  · next hi =>
    cases best with
    | none =>
      exact ⟨hi, by simp, hlast hself fun j hj he => by rw [h j hj] at he; cases he⟩
    | some w =>
      obtain ⟨hw, hmem, hbest⟩ := h
      simp only
      split
      · next hlt =>
        have hlt := BitVec.lt_def.mp hlt
        refine ⟨hi, by simp, hlast hself fun j hj he => .inl ?_⟩
        obtain h | ⟨h, -⟩ := hbest j hj he <;> omega
      · next hge =>
        have hge := BitVec.not_lt.mp hge
        refine ⟨hw, List.mem_append_left _ hmem, hlast ?_ hbest⟩
        obtain heq | hlt := (BitVec.le_def.mp hge).eq_or_lt
        · exact .inr ⟨heq, (hlater w hmem).le⟩
        · exact .inl hlt
  · next hi =>
    cases best with
    | none =>
      intro j hj
      obtain hj | hj := List.mem_append.mp hj
      · exact h j hj
      · obtain rfl := List.mem_singleton.mp hj
        exact Bool.eq_false_iff.mpr hi
    | some w =>
      obtain ⟨hw, hmem, hbest⟩ := h
      refine ⟨hw, List.mem_append_left _ hmem, fun j hj he => ?_⟩
      obtain hj | hj := List.mem_append.mp hj
      · exact hbest j hj he
      · obtain rfl := List.mem_singleton.mp hj
        exact absurd he hi

theorem winnerOf_foldl {st : State} (rest : List (Fin 32)) {seen : List (Fin 32)} {best : Option (Fin 32)}
    (h : st.WinnerOf seen best) (hsorted : (seen ++ rest).Pairwise (· < ·)) :
    st.WinnerOf (seen ++ rest) (rest.foldl st.winnerStep best) := by
  induction rest generalizing seen best with
  | nil => rwa [List.append_nil]
  | cons i rest ih =>
    obtain ⟨-, -, hcross⟩ := List.pairwise_append.mp hsorted
    have hstep := winnerOf_step h fun j hj => hcross j hj i (List.mem_cons_self ..)
    rw [List.append_cons] at hsorted ⊢
    exact ih hstep hsorted

theorem irqWinner_winnerOf (st : State) : st.WinnerOf (List.finRange 32) st.irqWinner := by
  rw [irqWinner_eq_foldl]
  exact winnerOf_foldl (List.finRange 32) (seen := []) (best := none) (fun _ h => by cases h) (List.pairwise_lt_finRange 32)

theorem irqWinner_some {st : State} {w : Fin 32} (h : st.irqWinner = some w) :
    st.eligible w = true ∧ ∀ i, st.eligible i = true → st.ServedBefore w i := by
  have hw := irqWinner_winnerOf st
  rw [h] at hw
  obtain ⟨he, -, hbest⟩ := hw
  exact ⟨he, fun i => hbest i (List.mem_finRange i)⟩

theorem irqWinner_none_iff {st : State} : st.irqWinner = none ↔ ∀ i, st.eligible i = false := by
  constructor
  · intro h i
    have hw := irqWinner_winnerOf st
    rw [h] at hw
    exact hw i (List.mem_finRange i)
  · intro h
    cases hw : st.irqWinner with
    | none => rfl
    | some w =>
      have he := (irqWinner_some hw).1
      rw [h w] at he
      cases he

theorem vicRegAt_irqStatus : VicRegAt 0xFFFFF000 .irqStatus := ⟨0x000, by decide, rfl⟩
theorem vicRegAt_fiqStatus : VicRegAt 0xFFFFF004 .fiqStatus := ⟨0x004, by decide, rfl⟩
theorem vicRegAt_rawIntr : VicRegAt 0xFFFFF008 .rawIntr := ⟨0x008, by decide, rfl⟩

/-- Settles O56: the words bit by bit, and the winner as the least of the eligible channels. -/
theorem vicWinner : Obligations.VicWinner := by
  unfold Obligations.VicWinner
  intro s
  refine ⟨fun k hk => requests_iff s hk, fun k hk => vicWords_getLsbD s hk, fun hallowed => ?_, fun i => eligible_iff,
    fun w hw => irqWinner_some hw, irqWinner_none_iff, irqLine_iff, fiqLine_iff⟩
  have hopen {r : VicReg} (hr : r ≠ .protection) : s.vicForbids r = false := vicForbids_open hallowed hr
  refine ⟨memRead_vicReg vicRegAt_irqStatus (hopen (by decide)), memRead_vicReg vicRegAt_fiqStatus (hopen (by decide)),
    memRead_vicReg vicRegAt_rawIntr (hopen (by decide)), fun v => ?_⟩
  exact List.forall_mem_cons.mpr ⟨memWrite_vicReg v vicRegAt_irqStatus (hopen (by decide)),
    List.forall_mem_cons.mpr ⟨memWrite_vicReg v vicRegAt_fiqStatus (hopen (by decide)),
      List.forall_mem_singleton.mpr (memWrite_vicReg v vicRegAt_rawIntr (hopen (by decide)))⟩⟩

end Sys2Proof.Machine
end

section
/-! PROOFS. The vectored interrupt controller (60_exceptions.md R475 to R480): the levels in service, the fields of the
registers, and what VICProtection shuts out. -/
namespace Sys2Proof.Machine

/-! ### The levels in service -/

theorem levelBit_getLsbD {l k : Nat} (hk : k < 16) : (levelBit l).getLsbD k = decide (k = l) := by
  show ((BitVec.ofBool true).setWidth 16 <<< l).getLsbD k = _
  rw [flagAt_getLsbD _ _ hk, Bool.and_true]

/-- The channel read from VICAddress puts its level in service (R479, R480). -/
theorem readVicAddress_some {st : State} {w : Fin 32} (h : st.irqWinner = some w) :
    readVicAddress st = .ok st.vic.vectAddr[w] { st with vic := { st.vic with
      address := st.vic.vectAddr[w]
      inService := st.vic.inService ||| levelBit (st.vic.vectPriority[w]).toNat } } := by
  simp only [readVicAddress, h]

theorem readVicAddress_none {st : State} (h : st.irqWinner = none) : readVicAddress st = .ok st.vic.address st := by
  simp only [readVicAddress, h]

/-- A level in service holds off every channel of that priority or a larger one (R461). -/
theorem eligible_of_inService {st : State} {l : Nat} {i : Fin 32} (hl : st.vic.inService.getLsbD l = true)
    (hi : l ≤ (st.vic.vectPriority[i]).toNat) : st.eligible i = false := by
  rw [← Bool.not_eq_true, eligible_iff]
  rintro ⟨-, -, habove⟩
  exact absurd (habove l (BitVec.lt_of_getLsbD hl) hl) (by omega)

theorem topService_some {v : Vic} {l : Nat} (h : v.topService = some l) :
    v.inService.getLsbD l = true ∧ ∀ k, k < l → v.inService.getLsbD k = false := by
  obtain ⟨hl, -, hleast⟩ := List.find?_range_eq_some.mp h
  exact ⟨hl, fun k hk => by rw [← Bool.not_eq_true']; exact hleast k hk⟩

theorem topService_none {v : Vic} (h : v.topService = none) {k : Nat} (hk : k < 16) : v.inService.getLsbD k = false := by
  rw [← Bool.not_eq_true']
  exact List.find?_range_eq_none.mp h k hk

/-- A write to VICAddress takes the least level out of service (R479). -/
theorem writeVicAddress_inService (v : Word) (vic : Vic) {l : Nat} (hl : l < 16) :
    (writeVicReg .address v vic).inService.getLsbD l = true
      ↔ vic.inService.getLsbD l = true ∧ ∃ k, k < l ∧ vic.inService.getLsbD k = true := by
  simp only [writeVicReg]
  split
  · next top htop =>
    obtain ⟨hset, hleast⟩ := topService_some htop
    rw [BitVec.getLsbD_and, BitVec.getLsbD_not, levelBit_getLsbD hl, decide_eq_true hl, Bool.true_and, Bool.and_eq_true,
      Bool.not_eq_true', decide_eq_false_iff_not]
    refine and_congr_right fun hmem => ⟨fun hne => ⟨top, ?_, hset⟩, ?_⟩
    · refine Nat.lt_of_le_of_ne (Nat.le_of_not_lt fun hlt => ?_) (Ne.symm hne)
      rw [hleast l hlt] at hmem
      cases hmem
    · rintro ⟨k, hk, hkset⟩ rfl
      rw [hleast k hk] at hkset
      cases hkset
  · next htop =>
    rw [topService_none htop hl]
    simp only [Bool.false_eq_true, false_and]

/-! ### The fields -/

/-- Reading a register that has one field of `n` bits from bit 0 gives the field. -/
theorem readBits_field {n : Nat} {mask : Word} (field : BitVec n) (st : State)
    (hmask : ∀ k, k < n → mask.getLsbD (0 + k) = true) (hn : n ≤ 32) :
    ∃ x idx, readBits mask (field.setWidth 32) st = .ok x { st with freeIdx := idx } ∧ x.extractLsb' 0 n = field := by
  obtain ⟨x, idx, hread, hbits⟩ := readBits_spec mask (field.setWidth 32) st
  refine ⟨x, idx, hread, ?_⟩
  rw [extract_eq_of_bits hbits hmask]
  refine BitVec.eq_of_getLsbD_eq fun k hk => ?_
  rw [BitVec.getLsbD_extractLsb', BitVec.getLsbD_setWidth, Nat.zero_add, decide_eq_true hk,
    decide_eq_true (Nat.lt_of_lt_of_le hk hn), Bool.true_and, Bool.true_and]

theorem vicRegAt_wordIndex {base : Word} {lo n : Nat} {r : VicReg} (hbase : base.toNat = 0xFFFFF000 + lo)
    (hlo : lo % 4 = 0) (hn : lo + 4 * n < 0x1000) (hr : VicReg.ofOffset (lo + 4 * n) = some r) :
    VicRegAt (base + 4 * BitVec.ofNat 32 n) r := by
  refine ⟨lo + 4 * n, ⟨?_, hn, by omega⟩, hr⟩
  rw [toNat_wordIndex (by omega), hbase, Nat.add_assoc]

theorem vicRegAt_vectAddr (n : Fin 32) : VicRegAt (0xFFFFF100 + 4 * BitVec.ofNat 32 n.val) (.vectAddr n) := by
  have hn := n.isLt
  refine vicRegAt_wordIndex (lo := 0x100) rfl rfl (by omega) ?_
  unfold VicReg.ofOffset
  rw [if_pos (by omega), Nat.add_sub_cancel_left, Nat.mul_div_cancel_left _ (by decide), Fin.ofNat_val_eq_self]

theorem vicRegAt_vectPriority (n : Fin 32) : VicRegAt (0xFFFFF200 + 4 * BitVec.ofNat 32 n.val) (.vectPriority n) := by
  have hn := n.isLt
  refine vicRegAt_wordIndex (lo := 0x200) rfl rfl (by omega) ?_
  unfold VicReg.ofOffset
  rw [if_neg (by omega), if_pos (by omega), Nat.add_sub_cancel_left,
    Nat.mul_div_cancel_left _ (by decide), Fin.ofNat_val_eq_self]

theorem vicRegAt_offset {off : Nat} {r : VicReg} (hoff : off < 0x1000) (h4 : off % 4 = 0)
    (hr : VicReg.ofOffset off = some r) : VicRegAt (0xFFFFF000 + BitVec.ofNat 32 off) r := by
  refine ⟨off, ⟨?_, hoff, h4⟩, hr⟩
  rw [BitVec.toNat_add, BitVec.toNat_ofNat, show ((0xFFFFF000 : Word)).toNat = 0xFFFFF000 from rfl]
  omega

/-! ### The statement's parts -/

section open_access
variable {s : State} (v : Word) (hallowed : s.mode ≠ .user ∨ s.vic.protection = false)
include hallowed

theorem read_vicAddress_winner {w : Fin 32} (hw : s.irqWinner = some w) :
    ∃ t, memRead 0xFFFFFF00 .word s = .ok s.vic.vectAddr[w] t
      ∧ t.vic.address = s.vic.vectAddr[w]
      ∧ (∀ l, l < 16 → t.vic.inService.getLsbD l
          = (s.vic.inService.getLsbD l || decide (l = (s.vic.vectPriority[w]).toNat)))
      ∧ (∀ i, (s.vic.vectPriority[w]).toNat ≤ (s.vic.vectPriority[i]).toNat → t.eligible i = false)
      ∧ t = { s with vic := { s.vic with address := t.vic.address, inService := t.vic.inService } } := by
  have hbits (l : Nat) (hl : l < 16) : (s.vic.inService ||| levelBit (s.vic.vectPriority[w]).toNat).getLsbD l
      = (s.vic.inService.getLsbD l || decide (l = (s.vic.vectPriority[w]).toNat)) := by
    rw [BitVec.getLsbD_or, levelBit_getLsbD hl]
  refine ⟨_, (memRead_vicReg vicRegAt_address (vicForbids_open hallowed (by decide))).trans (readVicAddress_some hw), rfl,
    hbits, fun i hi => eligible_of_inService ?_ hi, rfl⟩
  refine (hbits _ (s.vic.vectPriority[w]).isLt).trans ?_
  rw [decide_eq_true rfl, Bool.or_true]

theorem write_vicAddress :
    ∃ t, memWrite 0xFFFFFF00 .word v s = .ok () t
      ∧ t = { s with vic := { s.vic with address := v, inService := t.vic.inService } }
      ∧ ∀ l, l < 16 → t.vic.inService.getLsbD l
          = (s.vic.inService.getLsbD l && decide (∃ k, k < l ∧ s.vic.inService.getLsbD k = true)) := by
  refine ⟨_, memWrite_vicReg v vicRegAt_address (vicForbids_open hallowed (by decide)), rfl, fun l hl => ?_⟩
  rw [Bool.eq_iff_iff, Bool.and_eq_true, decide_eq_true_eq]
  exact writeVicAddress_inService v s.vic hl

end open_access

/-- Settles O57: the registers that may be read and written by R478, each by its rule, and the abort of the others. -/
theorem vicAddressAndProtection : Obligations.VicAddressAndProtection := by
  unfold Obligations.VicAddressAndProtection
  intro s v
  refine ⟨fun hallowed => ⟨fun w => read_vicAddress_winner hallowed, fun hnone => ?_, write_vicAddress v hallowed⟩,
    fun hallowed => ?_, fun hpriv => ?_, fun huser => ?_⟩
  · exact (memRead_vicReg vicRegAt_address (vicForbids_open hallowed (by decide))).trans (readVicAddress_none hnone)
  · have hopen {r : VicReg} (hr : r ≠ .protection) : s.vicForbids r = false := vicForbids_open hallowed hr
    refine ⟨fun n => ⟨memWrite_vicReg v (vicRegAt_vectAddr n) (hopen nofun),
        memRead_vicReg (vicRegAt_vectAddr n) (hopen nofun),
        memWrite_vicReg v (vicRegAt_vectPriority n) (hopen nofun), ?_⟩,
      memWrite_vicReg v vicRegAt_swPriorityMask (hopen nofun), ?_, ?_⟩
    · rw [memRead_vicReg (vicRegAt_vectPriority n) (hopen nofun)]
      exact readBits_field _ s (by decide) (by decide)
    · rw [memRead_vicReg vicRegAt_swPriorityMask (hopen nofun)]
      exact readBits_field _ s (by decide) (by decide)
    · exact List.forall_mem_cons.mpr ⟨⟨_, _, memRead_vicReg vicRegAt_intEnClr (hopen nofun)⟩,
        List.forall_mem_singleton.mpr ⟨_, _, memRead_vicReg vicRegAt_softIntClear (hopen nofun)⟩⟩
  · refine ⟨memWrite_vicReg v vicRegAt_protection (vicForbids_privileged _ hpriv), ?_⟩
    obtain ⟨x, idx, hread, hfield⟩ :=
      readBits_field (mask := 0x1) (BitVec.ofBool s.vic.protection) s (by decide) (by decide)
    refine ⟨x, idx, (memRead_vicReg vicRegAt_protection (vicForbids_privileged _ hpriv)).trans hread, ?_⟩
    calc x.getLsbD 0 = (x.extractLsb' 0 1).getLsbD 0 := by rw [BitVec.getLsbD_extractLsb']; rfl
      _ = s.vic.protection := by rw [hfield, BitVec.getLsbD_ofBool]; rfl
  · obtain ⟨hread, hwrite⟩ := access_vicReg_forbidden v vicRegAt_protection (vicForbids_iff.mpr ⟨huser, .inr rfl⟩)
    exact ⟨hread, hwrite, fun hprot off r hoff h4 hr =>
      access_vicReg_forbidden v (vicRegAt_offset hoff h4 hr) (vicForbids_iff.mpr ⟨huser, .inl hprot⟩)⟩

end Sys2Proof.Machine
end

section
/-! PROOFS. The system control block (61_platform_devices.md R547): an access to a register of it, the PLL with its feed
sequence (R551 to R556), and what each register stores and gives. -/
namespace Sys2Proof.Machine

/-! ### Access to the registers -/

/-- The word at `a` is register `r` of the system control block. -/
abbrev SysRegAt (a : Word) (r : SysReg) : Prop := ∃ off, InSystem a off ∧ SysReg.ofOffset off = some r

section registers
variable {a : Word} {r : SysReg} (v : Word) (st : State)

theorem memRead_sysReg (h : SysRegAt a r) : memRead a .word st = readSysReg r st.disarmed := by
  obtain ⟨off, hin, hr⟩ := h
  rw [memRead_system st hin, readSystem, hr]

theorem memWrite_sysReg (h : SysRegAt a r) (hfeed : r ≠ .pllfeed) :
    memWrite a .word v st = writeSysReg r v st.disarmed := by
  obtain ⟨off, hin, hr⟩ := h
  have hne : off ≠ 0x8C := by
    rintro rfl
    exact hfeed (Option.some.inj hr).symm
  rw [memWrite_system v st hin hne, writeSystem, hr]

end registers

theorem sysRegAt_mamcr : SysRegAt 0xE01FC000 .mamcr := ⟨0x000, by decide, rfl⟩
theorem sysRegAt_mamtim : SysRegAt 0xE01FC004 .mamtim := ⟨0x004, by decide, rfl⟩
theorem sysRegAt_memmap : SysRegAt 0xE01FC040 .memmap := ⟨0x040, by decide, rfl⟩
theorem sysRegAt_pllcon : SysRegAt 0xE01FC080 .pllcon := ⟨0x080, by decide, rfl⟩
theorem sysRegAt_pllcfg : SysRegAt 0xE01FC084 .pllcfg := ⟨0x084, by decide, rfl⟩
theorem sysRegAt_pllstat : SysRegAt 0xE01FC088 .pllstat := ⟨0x088, by decide, rfl⟩
theorem sysRegAt_pcon : SysRegAt 0xE01FC0C0 .pcon := ⟨0x0C0, by decide, rfl⟩
theorem sysRegAt_pconp : SysRegAt 0xE01FC0C4 .pconp := ⟨0x0C4, by decide, rfl⟩
theorem sysRegAt_cclkcfg : SysRegAt 0xE01FC104 .cclkcfg := ⟨0x104, by decide, rfl⟩
theorem sysRegAt_usbclkcfg : SysRegAt 0xE01FC108 .usbclkcfg := ⟨0x108, by decide, rfl⟩
theorem sysRegAt_clksrcsel : SysRegAt 0xE01FC10C .clksrcsel := ⟨0x10C, by decide, rfl⟩
theorem sysRegAt_extint : SysRegAt 0xE01FC140 .extint := ⟨0x140, by decide, rfl⟩
theorem sysRegAt_intwake : SysRegAt 0xE01FC144 .intwake := ⟨0x144, by decide, rfl⟩
theorem sysRegAt_extmode : SysRegAt 0xE01FC148 .extmode := ⟨0x148, by decide, rfl⟩
theorem sysRegAt_extpolar : SysRegAt 0xE01FC14C .extpolar := ⟨0x14C, by decide, rfl⟩
theorem sysRegAt_scs : SysRegAt 0xE01FC1A0 .scs := ⟨0x1A0, by decide, rfl⟩
theorem sysRegAt_irctrim : SysRegAt 0xE01FC1A4 .irctrim := ⟨0x1A4, by decide, rfl⟩
theorem sysRegAt_pclksel0 : SysRegAt 0xE01FC1A8 .pclksel0 := ⟨0x1A8, by decide, rfl⟩
theorem sysRegAt_pclksel1 : SysRegAt 0xE01FC1AC .pclksel1 := ⟨0x1AC, by decide, rfl⟩

/-- A read of the word at `a` gives the bits `described` of `x`, and breaks a feed sequence. -/
def State.Gives (st : State) (a described x : Word) : Prop :=
  ∃ y idx, memRead a .word st = .ok y { st.disarmed with freeIdx := idx } ∧ y &&& described = x &&& described

theorem gives_of_readBits {st : State} {a mask described x : Word} (hread : memRead a .word st = readBits mask x st.disarmed)
    (hsub : described &&& mask = described) : st.Gives a described x := by
  obtain ⟨y, idx, hy, hbits⟩ := readBits_spec mask x st.disarmed
  exact ⟨y, idx, hread.trans hy, and_eq_and_of_bits hbits hsub⟩

/-! ### The PLL -/

theorem writePllfeed_first {v : Word} (st : State) (hv : v.extractLsb' 0 8 = 0xAA) :
    writePllfeed v st = { st with sys := { st.sys with feedArmed := true } } := by
  rw [writePllfeed, if_pos hv]

theorem writePllfeed_second {v : Word} {st : State} (hv : v.extractLsb' 0 8 = 0x55) (harmed : st.sys.feedArmed = true) :
    writePllfeed v st = feedPll st := by
  rw [writePllfeed, if_neg (by rw [hv]; decide), if_pos ⟨hv, harmed⟩]

/-- Only a valid feed changes what the PLL does (R556). -/
theorem writePllfeed_unarmed (v : Word) {st : State} (h : st.sys.feedArmed = false) :
    (writePllfeed v st).sys.pllConEff = st.sys.pllConEff ∧ (writePllfeed v st).sys.pllCfgEff = st.sys.pllCfgEff := by
  unfold writePllfeed
  split
  · exact ⟨rfl, rfl⟩
  · rw [if_neg (by rw [h]; simp)]
    exact ⟨rfl, rfl⟩

theorem writePllfeed_disarms {v : Word} {st : State} (hv : v.extractLsb' 0 8 ≠ 0xAA) (h : st.sys.feedArmed = false) :
    writePllfeed v st = st.disarmed := by
  rw [writePllfeed, if_neg hv, if_neg (by rw [h]; simp)]
  rfl

/-- A feed that neither enables the PLL nor changes its configuration starts no lock time. -/
theorem feedPll_locked {st : State} (h : st.sys.pllcon.getLsbD 0 = false
      ∨ (st.sys.pllConEff.getLsbD 0 = true ∧ st.sys.pllcfg = st.sys.pllCfgEff)) :
    feedPll st = { st with sys := { st.sys with
      pllConEff := st.sys.pllcon, pllCfgEff := st.sys.pllcfg, feedArmed := false } } := by
  have hrelock : (st.sys.pllcon.getLsbD 0 && (!st.sys.pllConEff.getLsbD 0 || st.sys.pllcfg != st.sys.pllCfgEff)) = false := by
    obtain h | ⟨hon, hcfg⟩ := h
    · rw [h, Bool.false_and]
    · rw [hon, hcfg, bne_self_eq_false, Bool.not_true, Bool.or_false, Bool.and_false]
  simp only [feedPll, hrelock, Bool.false_eq_true, if_false]

theorem pllstat_getLsbD (s : SysControl) {k : Nat} (hk : k < 32) :
    s.pllstat.getLsbD k
      = ((s.pllCfgEff.getLsbD k || (!decide (k < 24) && s.pllConEff.getLsbD (k - 24))) || (decide (k = 26) && s.plock)) := by
  have hk' : k - 24 < 32 := by omega
  rw [SysControl.pllstat, BitVec.getLsbD_or, BitVec.getLsbD_or, flagAt_getLsbD _ _ hk, BitVec.getLsbD_shiftLeft,
    BitVec.getLsbD_setWidth, decide_eq_true hk, decide_eq_true hk', Bool.true_and, Bool.true_and]

/-- The bits a read of PLLSTAT determines in any case: the configuration and the control bits. -/
theorem pllstatMask_getLsbD (s : SysControl) {k : Nat} (hk : k < 26) (h15 : k ≠ 15) : s.pllstatMask.getLsbD k = true := by
  unfold SysControl.pllstatMask
  split <;> · revert k; decide

theorem pllstatMask_plock {s : SysControl} (h : s.pllConEff.getLsbD 0 = false ∨ s.pllWait = 0) :
    s.pllstatMask.getLsbD 26 = true := by
  rw [SysControl.pllstatMask, if_neg]
  · rfl
  · rw [Bool.and_eq_true, bne_iff_ne]
    rintro ⟨hon, hwait⟩
    obtain h | h := h
    · rw [h] at hon
      cases hon
    · exact hwait h

/-- A read of PLLSTAT gives the effective configuration and control, and PLOCK when the lock time is over. -/
theorem read_pllstat (s : State) (hcfg : s.sys.pllCfgEff &&& 0xFF008000 = 0) :
    ∃ y idx, memRead 0xE01FC088 .word s = .ok y { s.disarmed with freeIdx := idx }
      ∧ y.extractLsb' 0 15 = s.sys.pllCfgEff.extractLsb' 0 15
      ∧ y.extractLsb' 16 8 = s.sys.pllCfgEff.extractLsb' 16 8 ∧ y.extractLsb' 24 2 = s.sys.pllConEff
      ∧ (s.sys.pllConEff.getLsbD 0 = false → y.getLsbD 26 = false)
      ∧ (s.sys.pllConEff.getLsbD 0 = true → s.sys.pllWait = 0 → y.getLsbD 26 = true) := by
  obtain ⟨y, idx, hread, hbits⟩ := readBits_spec s.disarmed.sys.pllstatMask s.disarmed.sys.pllstat s.disarmed
  have hstat {k : Nat} (hk : k < 26) (h15 : k ≠ 15) : y.getLsbD k = s.sys.pllstat.getLsbD k :=
    hbits k (pllstatMask_getLsbD _ hk h15)
  have hplock (h : s.sys.pllConEff.getLsbD 0 = false ∨ s.sys.pllWait = 0) : y.getLsbD 26 = s.sys.pllstat.getLsbD 26 :=
    hbits 26 (pllstatMask_plock h)
  have hhigh {k : Nat} (hk : 24 ≤ k ∧ k < 32) : s.sys.pllCfgEff.getLsbD k = false := by
    have hmask : ∀ k : Fin 32, 24 ≤ k.val → ((0xFF008000 : Nat) : Word).getLsbD k.val = true := by decide
    have hbit := congrArg (fun x : Word => x.getLsbD k) hcfg
    simp only [BitVec.getLsbD_and] at hbit
    rw [show (0xFF008000 : Word).getLsbD k = true from hmask ⟨k, hk.2⟩ hk.1, Bool.and_true] at hbit
    rw [hbit]
    exact BitVec.getLsbD_zero
  have hconfig {k : Nat} (hk : k < 24) (h15 : k ≠ 15) : y.getLsbD k = s.sys.pllCfgEff.getLsbD k := by
    rw [hstat (by omega) h15, pllstat_getLsbD _ (by omega), decide_eq_true hk, Bool.not_true, Bool.false_and,
      Bool.or_false, decide_eq_false (by omega), Bool.false_and, Bool.or_false]
  have h26 : s.sys.pllstat.getLsbD 26 = s.sys.plock := by
    rw [pllstat_getLsbD _ (by decide), hhigh (by decide), Bool.false_or, BitVec.getLsbD_of_ge s.sys.pllConEff 2 (by decide),
      Bool.and_false, Bool.false_or, decide_eq_true rfl, Bool.true_and]
  refine ⟨y, idx, (memRead_sysReg s sysRegAt_pllstat).trans hread, ?_, ?_, ?_, fun hoff => ?_, fun hon hwait => ?_⟩
  · refine BitVec.eq_of_getLsbD_eq fun k hk => ?_
    rw [BitVec.getLsbD_extractLsb', BitVec.getLsbD_extractLsb', hconfig (by omega) (by omega)]
  · refine BitVec.eq_of_getLsbD_eq fun k hk => ?_
    rw [BitVec.getLsbD_extractLsb', BitVec.getLsbD_extractLsb', hconfig (by omega) (by omega)]
  · refine BitVec.eq_of_getLsbD_eq fun k hk => ?_
    rw [BitVec.getLsbD_extractLsb', decide_eq_true hk, Bool.true_and, hstat (by omega) (by omega),
      pllstat_getLsbD _ (by omega), hhigh ⟨by omega, by omega⟩, decide_eq_false (by omega), Bool.not_false, Bool.true_and,
      Bool.false_or, decide_eq_false (by omega), Bool.false_and, Bool.or_false, Nat.add_sub_cancel_left]
  · rw [hplock (.inl hoff), h26, SysControl.plock, hoff, Bool.false_and]
  · rw [hplock (.inr hwait), h26, plock_iff.mpr ⟨hon, hwait⟩]

/-- Settles O58: the feed by its two writes, and every other access to the block disarms it. -/
theorem pllFeedSequence : Obligations.PllFeedSequence := by
  unfold Obligations.PllFeedSequence
  intro s v1 v2 x
  refine ⟨fun h1 h2 => ?_, fun h1 hunarmed => ?_, ?_, ?_, memWrite_sysReg x s sysRegAt_pllstat nofun, read_pllstat s,
    fun h2 harmed hlocked => ?_⟩
  · refine ⟨_, (memWrite_pllfeed v1 s).trans (congrArg _ (writePllfeed_first s h1)),
      ⟨_, (memWrite_pllfeed v2 _).trans (congrArg _ (writePllfeed_second h2 rfl)), rfl, rfl⟩, ?_⟩
    obtain ⟨y, idx, hread, -⟩ := readBits_spec 0x3 (s.sys.pllcon.setWidth 32)
      ({ s with sys := { s.sys with feedArmed := true } } : State).disarmed
    obtain ⟨hcon, hcfg⟩ := writePllfeed_unarmed (st := { s.disarmed with freeIdx := idx }) v2 rfl
    exact ⟨y, _, _, (memRead_sysReg _ sysRegAt_pllcon).trans hread, memWrite_pllfeed v2 _, hcon, hcfg⟩
  · obtain ⟨hcon, hcfg⟩ := writePllfeed_unarmed (st := s.disarmed) v2 rfl
    exact ⟨_, _, (memWrite_pllfeed v1 s).trans (congrArg _ (writePllfeed_disarms h1 hunarmed)), memWrite_pllfeed v2 _, hcon,
      hcfg⟩
  · exact ⟨_, memWrite_sysReg x s sysRegAt_pllcon nofun, rfl, rfl, rfl⟩
  · exact ⟨_, memWrite_sysReg x s sysRegAt_pllcfg nofun, rfl, rfl, rfl⟩
  · rw [memWrite_pllfeed, writePllfeed_second h2 harmed, feedPll_locked hlocked]

end Sys2Proof.Machine
end

section
/-! PROOFS. The system control block: what the registers of the memory accelerator, the power control and the clocks store and
give (61_platform_devices.md R541 to R566, 60_exceptions.md R492). -/
namespace Sys2Proof.Machine

/-! ### Power modes -/

theorem memWrite_pcon (v : Word) (s : State) : memWrite 0xE01FC0C0 .word v s = writePcon v s.disarmed :=
  memWrite_sysReg v s sysRegAt_pcon nofun

/-- A described combination of PM2, PM1 and PM0 enters its mode (R492). -/
theorem writePcon_selects {v : Word} {m : PowerMode} (st : State) (h : pconMode v = some m) :
    writePcon v st = .ok () { st with
      power := m
      sys := { st.sys with
        pcon := v.extractLsb' 0 8 &&& 0x9F
        pllConEff := if m = .powerDown then 0 else st.sys.pllConEff } } := by
  simp only [writePcon, h]

/-- The mode depends on the three PM bits alone. -/
theorem pconMode_congr {v w : Word} (h2 : v.getLsbD 7 = w.getLsbD 7) (h1 : v.getLsbD 1 = w.getLsbD 1)
    (h0 : v.getLsbD 0 = w.getLsbD 0) : pconMode v = pconMode w := by
  rw [pconMode, pconMode, h2, h1, h0]

theorem pconMode_reserved {v : Word}
    (h : (v.getLsbD 1 = true ∧ v.getLsbD 0 = true) ∨ (v.getLsbD 7 = true ∧ v.getLsbD 0 = false)) : pconMode v = none := by
  obtain ⟨h1, h0⟩ | ⟨h2, h0⟩ := h
  · cases h2 : v.getLsbD 7 <;> simp only [pconMode, h2, h1, h0]
  · cases h1 : v.getLsbD 1 <;> simp only [pconMode, h2, h1, h0]

theorem writePcon_reserved {v : Word} {st : State} (h : pconMode v = none) :
    writePcon v st = .stop .reservedFieldValue := by
  simp only [writePcon, h]

/-! ### Clock selection -/

theorem extract_18_eq_one_iff {v : Word} : v.extractLsb' 18 2 = 1 ↔ v.getLsbD 19 = false ∧ v.getLsbD 18 = true := by
  have hbit (k : Nat) (hk : k < 2) : (v.extractLsb' 18 2).getLsbD k = v.getLsbD (18 + k) := by
    rw [BitVec.getLsbD_extractLsb', decide_eq_true hk, Bool.true_and]
  have h0 := hbit 0 (by decide)
  have h1 := hbit 1 (by decide)
  rw [← h0, ← h1]
  generalize v.extractLsb' 18 2 = x
  revert x
  decide

/-- The two masks of PCLKSEL0's RTC field cover complementary bits. -/
theorem pclksel0Masks_getLsbD {k : Nat} (hk : k < 32) :
    ((0x000C0000 : Nat) : Word).getLsbD k = decide (k = 18 ∨ k = 19)
      ∧ ((0xFFF3FFFF : Nat) : Word).getLsbD k = !decide (k = 18 ∨ k = 19) := by
  revert k
  decide

theorem pclksel0Written_getLsbD (old v : Word) {k : Nat} (hk : k < 32) :
    (pclksel0Written old v).getLsbD k
      = if (k = 18 ∨ k = 19) ∧ v.getLsbD 19 = false ∧ v.getLsbD 18 = true then old.getLsbD k else v.getLsbD k := by
  obtain ⟨hin, hout⟩ := pclksel0Masks_getLsbD hk
  unfold pclksel0Written
  split
  · next h =>
    rw [BitVec.getLsbD_or, BitVec.getLsbD_and, BitVec.getLsbD_and,
      show (0x000C0000 : Word).getLsbD k = _ from hin, show (0xFFF3FFFF : Word).getLsbD k = _ from hout]
    by_cases hf : k = 18 ∨ k = 19
    · rw [if_pos ⟨hf, extract_18_eq_one_iff.mp h⟩, decide_eq_true hf, Bool.not_true, Bool.and_false, Bool.false_or,
        Bool.and_true]
    · rw [if_neg (fun h => hf h.1), decide_eq_false hf, Bool.not_false, Bool.and_true, Bool.and_false, Bool.or_false]
  · next h => rw [if_neg (fun hrtc => h (extract_18_eq_one_iff.mpr hrtc.2))]

theorem pclksel1Mask_getLsbD {k : Nat} (hk : k < 32) :
    ((0x33FFFCFF : Nat) : Word).getLsbD k = !decide (k ∈ [8, 9, 26, 27, 30, 31]) := by
  revert k
  decide

/-! ### The oscillator -/

/-- The time of an oscillator that runs, or is not switched on, goes on as it was (R548). -/
theorem writeScs_running {v : Word} {st : State} (h : v.getLsbD 5 = false ∨ st.sys.scs.getLsbD 5 = true) :
    (writeScs v st).sys.oscWait = st.sys.oscWait ∧ (writeScs v st).freeIdx = st.freeIdx := by
  have hstart : (v.getLsbD 5 && !st.sys.oscEnabled) = false := by
    obtain h | h := h
    · rw [h, Bool.false_and]
    · rw [SysControl.oscEnabled, h, Bool.not_true, Bool.and_false]
  simp only [writeScs, hstart, Bool.false_eq_true, if_false, and_self]

/-- SCS as it is read: the stored bits and OSCSTAT. -/
def SysControl.scsRead (s : SysControl) : Word :=
  s.scs.setWidth 32 ||| ((BitVec.ofBool s.oscReady).setWidth 32 <<< 6)

theorem memRead_scs (s : State) : memRead 0xE01FC1A0 .word s = readBits s.sys.scsMask s.sys.scsRead s.disarmed :=
  memRead_sysReg s sysRegAt_scs

theorem scsRead_getLsbD (s : SysControl) {k : Nat} (hk : k < 32) :
    s.scsRead.getLsbD k = (s.scs.getLsbD k || (decide (k = 6) && s.oscReady)) := by
  rw [SysControl.scsRead, BitVec.getLsbD_or, flagAt_getLsbD _ _ hk, BitVec.getLsbD_setWidth, decide_eq_true hk,
    Bool.true_and]

theorem scsMask_of_settled {s : SysControl} (h : s.scs.getLsbD 5 = false ∨ s.oscWait = 0) : s.scsMask = 0x7B := by
  rw [SysControl.scsMask, if_neg]
  rw [Bool.and_eq_true, bne_iff_ne]
  rintro ⟨hon, hwait⟩
  obtain h | h := h
  · rw [SysControl.oscEnabled, h] at hon
    cases hon
  · exact hwait h

/-- A read gives a described part of the register that agrees with `x` there. -/
theorem gives_congr {st : State} {a described x x' : Word} (h : st.Gives a described x)
    (heq : x &&& described = x' &&& described) : st.Gives a described x' := by
  obtain ⟨y, idx, hread, hy⟩ := h
  exact ⟨y, idx, hread, hy.trans heq⟩

/-- The stored bits of SCS are determined whether or not the oscillator has started. -/
theorem gives_scs (s : State) : s.Gives 0xE01FC1A0 0x3B (s.sys.scs.setWidth 32) := by
  have hsub : (0x3B : Word) &&& s.sys.scsMask = 0x3B := by
    unfold SysControl.scsMask
    split <;> rfl
  refine gives_congr (gives_of_readBits (memRead_scs s) hsub) (BitVec.eq_of_getLsbD_eq fun k hk => ?_)
  rw [BitVec.getLsbD_and, BitVec.getLsbD_and, scsRead_getLsbD _ hk, BitVec.getLsbD_setWidth, decide_eq_true hk,
    Bool.true_and]
  by_cases h6 : k = 6
  · subst h6
    rw [show (0x3B : Word).getLsbD 6 = false from rfl, Bool.and_false, Bool.and_false]
  · rw [decide_eq_false h6, Bool.false_and, Bool.or_false]

/-- OSCSTAT once nothing is in the way of telling it (R548). -/
theorem gives_oscstat {s : State} {b : Bool} (hsettled : s.sys.scs.getLsbD 5 = false ∨ s.sys.oscWait = 0)
    (hb : (s.sys.scs.getLsbD 6 || s.sys.oscReady) = b) :
    s.Gives 0xE01FC1A0 0x40 ((BitVec.ofBool b).setWidth 32 <<< 6) := by
  have hread := memRead_scs s
  rw [scsMask_of_settled hsettled] at hread
  refine gives_congr (gives_of_readBits hread rfl) (BitVec.eq_of_getLsbD_eq fun k hk => ?_)
  have hmask : (0x40 : Word).getLsbD k = decide (k = 6) := by
    revert k
    decide
  rw [BitVec.getLsbD_and, BitVec.getLsbD_and, scsRead_getLsbD _ hk, flagAt_getLsbD _ _ hk, hmask]
  by_cases h6 : k = 6
  · subst h6
    rw [decide_eq_true rfl, Bool.true_and, Bool.true_and, hb]
  · rw [decide_eq_false h6, Bool.and_false, Bool.and_false]

/-! ### Reserved field values -/

/-- A write that stops the machine on a reserved value and otherwise stores: each branch as its own equation. -/
theorem guarded_write {c : Prop} [Decidable c] {m x y : Access Unit} (h : m = if c then x else y) :
    if c then m = x else m = y := by
  split
  · next hc => rw [h, if_pos hc]
  · next hc => rw [h, if_neg hc]

/-- Settles O59: one equation per register for the stores, and the bits a read determines for the loads. -/
theorem systemRegisterWrites : Obligations.SystemRegisterWrites := by
  unfold Obligations.SystemRegisterWrites
  intro s v sys stores stops selects gives
  have hselects {m : PowerMode} (w : Word) (hw : pconMode w = some m) :
      selects m (w.getLsbD 7) (w.getLsbD 1) (w.getLsbD 0) := fun h2 h1 h0 =>
    (memWrite_pcon v s).trans (writePcon_selects s.disarmed ((pconMode_congr h2 h1 h0).trans hw))
  refine ⟨guarded_write (memWrite_sysReg v s sysRegAt_mamcr nofun), guarded_write (memWrite_sysReg v s sysRegAt_mamtim nofun),
    guarded_write (memWrite_sysReg v s sysRegAt_memmap nofun), ?clksrcsel, hselects 0x00 rfl,
    hselects 0x01 rfl, hselects 0x81 rfl, hselects 0x02 rfl,
    fun h => (memWrite_pcon v s).trans (writePcon_reserved (pconMode_reserved h)),
    memWrite_sysReg v s sysRegAt_pconp nofun, memWrite_sysReg v s sysRegAt_cclkcfg nofun,
    memWrite_sysReg v s sysRegAt_usbclkcfg nofun, memWrite_sysReg v s sysRegAt_irctrim nofun,
    ⟨_, memWrite_sysReg v s sysRegAt_pclksel0 nofun, fun k hk => pclksel0Written_getLsbD _ v hk⟩,
    ⟨_, memWrite_sysReg v s sysRegAt_pclksel1 nofun, fun k hk => ?pclksel1⟩,
    ⟨_, _, memWrite_sysReg v s sysRegAt_scs nofun, fun h => writeScs_running (st := s.disarmed) h⟩,
    gives_of_readBits (memRead_sysReg s sysRegAt_mamcr) rfl, gives_of_readBits (memRead_sysReg s sysRegAt_mamtim) rfl,
    gives_of_readBits (memRead_sysReg s sysRegAt_memmap) rfl, gives_of_readBits (memRead_sysReg s sysRegAt_pllcon) rfl,
    gives_of_readBits (memRead_sysReg s sysRegAt_pllcfg) rfl, gives_of_readBits (memRead_sysReg s sysRegAt_pcon) rfl,
    gives_of_readBits (memRead_sysReg s sysRegAt_pconp) rfl, gives_of_readBits (memRead_sysReg s sysRegAt_cclkcfg) rfl,
    gives_of_readBits (memRead_sysReg s sysRegAt_usbclkcfg) rfl,
    gives_of_readBits (memRead_sysReg s sysRegAt_clksrcsel) rfl, gives_scs s,
    gives_of_readBits (memRead_sysReg s sysRegAt_irctrim) rfl, ⟨_, _, memRead_sysReg s sysRegAt_pclksel0, rfl⟩,
    ⟨_, _, memRead_sysReg s sysRegAt_pclksel1, rfl⟩, fun h6 hoff => ?off, fun hon hwait => ?on⟩
  case clksrcsel =>
    have hwrite := memWrite_sysReg v s sysRegAt_clksrcsel nofun
    simp only [writeSysReg] at hwrite
    split
    · next h3 => exact hwrite.trans (if_pos h3)
    · next h3 => exact guarded_write (hwrite.trans (if_neg h3))
  case pclksel1 =>
    rw [BitVec.getLsbD_and, show (0x33FFFCFF : Word).getLsbD k = _ from pclksel1Mask_getLsbD hk]
  case off => exact gives_oscstat (b := false) (.inl hoff) (by rw [h6, SysControl.oscReady, SysControl.oscEnabled, hoff]; rfl)
  case on =>
    refine gives_oscstat (b := true) (.inr hwait) ?_
    rw [SysControl.oscReady, SysControl.oscEnabled, hon, hwait, beq_self_eq_true, Bool.true_and, Bool.or_true]

end Sys2Proof.Machine
end

section
/-! PROOFS. The external interrupt registers (60_exceptions.md R485 to R489), the pin connect block (62_pin_connect.md R620 to
R623) and the EMC (61_platform_devices.md R546). -/
namespace Sys2Proof.Machine

/-! ### External interrupts -/

/-- A written 1 clears a flag, but not that of a level-sensitive input at its active level (R486). -/
theorem extintCleared_iff {st : State} {v : Word} {k : Nat} (hk : k < 4) :
    (st.extintCleared v).getLsbD k = true ↔ st.ext.extint.getLsbD k = true
      ∧ (v.getLsbD k = false ∨ (st.ext.extmode.getLsbD k = false ∧ st.eintActive k = true)) := by
  rw [State.extintCleared, bits4_getLsbD _ hk]
  cases v.getLsbD k <;> cases st.ext.extmode.getLsbD k <;>
    simp only [Bool.and_eq_true, Bool.not_false, Bool.not_true, Bool.true_and, Bool.false_and,
      Bool.not_not, Bool.true_eq_false, Bool.false_eq_true, Bool.and_true, Bool.and_false, true_or, false_or, true_and,
      false_and, and_true, and_false]

/-- A flag whose mode and polarity stay keeps its value (R488, R489). -/
theorem extintDisturbed_unchanged {st : State} {old new : BitVec 4} {k : Nat} (hk : k < 4)
    (h : new.getLsbD k = old.getLsbD k) : (st.extintDisturbed (old ^^^ new)).getLsbD k = st.ext.extint.getLsbD k := by
  have hsame : (old ^^^ new).getLsbD k = false := by rw [BitVec.getLsbD_xor, h, Bool.xor_self]
  rw [State.extintDisturbed, BitVec.getLsbD_or, BitVec.getLsbD_and, BitVec.getLsbD_and, BitVec.getLsbD_not, hsame,
    decide_eq_true hk, Bool.not_false, Bool.and_true, Bool.and_true, Bool.and_false, Bool.or_false]

theorem extract_low4_getLsbD (v : Word) {k : Nat} (hk : k < 4) : (v.extractLsb' 0 4).getLsbD k = v.getLsbD k := by
  rw [BitVec.getLsbD_extractLsb', decide_eq_true hk, Bool.true_and, Nat.zero_add]

/-! ### Pin connect block -/

section pins
variable (v : Word) (s : State)

theorem inPins_wordIndex {base : Word} {lo n : Nat} (hbase : base.toNat = 0xE002C000 + lo) (hlo : lo % 4 = 0)
    (hn : lo + 4 * n < 0x4000) : InPins (base + 4 * BitVec.ofNat 32 n) (lo + 4 * n) := by
  refine ⟨?_, hn, by omega⟩
  rw [toNat_wordIndex (by omega), hbase, Nat.add_assoc]

/-- PINSEL0 to PINSEL9 hold whole words. -/
theorem pinsel_access {n : Fin 11} (hn : n ≠ 10) :
    memWrite (0xE002C000 + 4 * BitVec.ofNat 32 n.val) .word v s
        = .ok () { s.disarmed with pinConn := { s.pinConn with pinsel := s.pinConn.pinsel.set n v } }
      ∧ memRead (0xE002C000 + 4 * BitVec.ofNat 32 n.val) .word s = .ok s.pinConn.pinsel[n] s.disarmed := by
  have hlt : n.val < 10 := by
    have h := n.isLt
    have hne : n.val ≠ 10 := fun h => hn (Fin.ext h)
    omega
  have hin := inPins_wordIndex (base := 0xE002C000) (lo := 0) (n := n.val) rfl rfl (by omega)
  have hidx : Fin.ofNat 11 ((0 + 4 * n.val) / 4) = n := by
    rw [Nat.zero_add, Nat.mul_div_cancel_left _ (by decide), Fin.ofNat_val_eq_self]
  rw [memWrite_pins v s hin, memRead_pins s hin, writePins, readPins, if_pos (by omega), if_pos (by omega)]
  simp only [hidx]
  exact ⟨rfl, rfl⟩

/-- PINMODE0 to PINMODE9 hold whole words. -/
theorem pinmode_access (n : Fin 10) :
    memWrite (0xE002C040 + 4 * BitVec.ofNat 32 n.val) .word v s
        = .ok () { s.disarmed with pinConn := { s.pinConn with pinmode := s.pinConn.pinmode.set n v } }
      ∧ memRead (0xE002C040 + 4 * BitVec.ofNat 32 n.val) .word s = .ok s.pinConn.pinmode[n] s.disarmed := by
  have hlt := n.isLt
  have hin := inPins_wordIndex (base := 0xE002C040) (lo := 0x40) (n := n.val) rfl rfl (by omega)
  have hidx : Fin.ofNat 10 ((0x40 + 4 * n.val - 0x40) / 4) = n := by
    rw [Nat.add_sub_cancel_left, Nat.mul_div_cancel_left _ (by decide), Fin.ofNat_val_eq_self]
  rw [memWrite_pins v s hin, memRead_pins s hin, writePins, readPins, if_neg (by omega), if_neg (by omega),
    if_pos (by omega), if_neg (by omega), if_neg (by omega), if_pos (by omega)]
  simp only [hidx]
  exact ⟨rfl, rfl⟩

/-- PINSEL10, of which bit 3 alone is described (R622). -/
theorem pinsel10_access :
    memWrite 0xE002C028 .word v s
        = .ok () { s.disarmed with pinConn := { s.pinConn with pinsel := s.pinConn.pinsel.set 10 (v &&& 0x8) } }
      ∧ s.Gives 0xE002C028 0x8 s.pinConn.pinsel[10] :=
  have hin : InPins 0xE002C028 0x28 := by decide
  ⟨memWrite_pins v s hin, gives_of_readBits (mask := 0x8) (memRead_pins s hin) rfl⟩

end pins

/-! ### EMC -/

/-- The word at `a` is at offset `off` of the EMC's block, the `k`-th register of the table. -/
structure EmcRegAt (a : Word) (off : Nat) (k : Fin 54) : Prop where
  inEmc : InEmc a off
  index : emcIndex off = some k.val

theorem emcIndex_some {off k : Nat} (h : emcIndex off = some k) : ∃ hk : k < emcTable.length, emcTable[k].1 = off := by
  obtain ⟨hk, heq, -⟩ := List.findIdx?_eq_some_iff_getElem.mp h
  exact ⟨hk, beq_iff_eq.mp heq⟩

/-- The address of an entry of the table. -/
def emcAddress (e : Nat × Word) : Word := 0xFFE08000 + BitVec.ofNat 32 e.1

theorem toNat_emcOffset {off : Nat} (h : off < 0x4000) :
    ((0xFFE08000 : Word) + BitVec.ofNat 32 off).toNat = 0xFFE08000 + off := by
  rw [BitVec.toNat_add, BitVec.toNat_ofNat, show ((0xFFE08000 : Word)).toNat = 0xFFE08000 from rfl]
  omega

theorem emcTable_offsets : ∀ e ∈ emcTable, e.1 < 0x4000 ∧ e.1 % 4 = 0 := by decide

/-- Every entry of the table is a register at its address. -/
theorem emcRegAt_of_entry {e : Nat × Word} (he : e ∈ emcTable) : ∃ k, EmcRegAt (emcAddress e) e.1 k := by
  obtain ⟨hlt, h4⟩ := emcTable_offsets e he
  have hsome : (emcIndex e.1).isSome = true := by
    rw [emcIndex, List.findIdx?_isSome, List.any_eq_true]
    exact ⟨e, he, beq_self_eq_true _⟩
  obtain ⟨k, hk⟩ := Option.isSome_iff_exists.mp hsome
  exact ⟨⟨k, (emcIndex_some hk).1⟩, ⟨toNat_emcOffset hlt, hlt, h4⟩, hk⟩

theorem emcRegAt_injective {a b : Word} {off off' : Nat} {k : Fin 54} (ha : EmcRegAt a off k) (hb : EmcRegAt b off' k) :
    a = b := by
  obtain ⟨_, hoff⟩ := emcIndex_some ha.index
  obtain ⟨_, hoff'⟩ := emcIndex_some hb.index
  refine BitVec.eq_of_toNat_eq ?_
  rw [ha.inEmc.1, hb.inEmc.1, ← hoff, ← hoff']

section emc
variable {a : Word} {off : Nat} {k : Fin 54} (v : Word) {st : State}

theorem access_emc_unpowered (h : EmcRegAt a off k) (hoff : st.sys.pconp.getLsbD 11 = false) :
    memWrite a .word v st = .stop .emcUnpowered ∧ memRead a .word st = .stop .emcUnpowered := by
  rw [memWrite_emc v st h.inEmc, memRead_emc st h.inEmc, writeEmc, readEmc, h.index]
  simp only [State.emcPowered, hoff, Bool.not_false, if_true, and_self]

theorem access_emc_powered (h : EmcRegAt a off k) (hne : off ≠ 4) (hon : st.sys.pconp.getLsbD 11 = true) :
    memWrite a .word v st = .ok () { st with emc := st.emc.set k v } ∧ memRead a .word st = .ok st.emc[k] st := by
  rw [memWrite_emc v st h.inEmc, memRead_emc st h.inEmc, writeEmc, readEmc, h.index]
  simp only [State.emcPowered, hon, Bool.not_true, Bool.false_eq_true, hne, if_false, Fin.ofNat_val_eq_self, and_self]

/-- At an offset with no register a store stops and a load gives any value (R81, D13). -/
theorem access_emc_gap (h : InEmc a off) (hnone : emcIndex off = none) :
    memWrite a .word v st = .stop .undescribedRegister
      ∧ ∃ x idx, memRead a .word st = .ok x { st with freeIdx := idx } := by
  rw [memWrite_emc v st h, memRead_emc st h, writeEmc, readEmc, hnone]
  exact ⟨rfl, _, _, rfl⟩

/-- A store changes its own register alone. -/
theorem emc_store (hon : st.sys.pconp.getLsbD 11 = true) (h : EmcRegAt a off k) (hne : off ≠ 4) :
    memWrite a .word v st = .ok () { st with emc := st.emc.set k v }
      ∧ memRead a .word { st with emc := st.emc.set k v } = .ok v { st with emc := st.emc.set k v }
      ∧ ∀ b off' k', EmcRegAt b off' k' → off' ≠ 4 → b ≠ a → ∃ x, memRead b .word st = .ok x st
        ∧ memRead b .word { st with emc := st.emc.set k v } = .ok x { st with emc := st.emc.set k v } := by
  obtain ⟨hwrite, -⟩ := access_emc_powered v h hne hon
  refine ⟨hwrite, ?_, fun b off' k' hb hne' hba => ?_⟩
  · rw [(access_emc_powered v (st := { st with emc := st.emc.set k v }) h hne hon).2]
    simp only [Fin.getElem_fin, Vector.getElem_set_self]
  · have hk : k.val ≠ k'.val := fun heq => hba (emcRegAt_injective hb (Fin.ext heq ▸ h))
    refine ⟨st.emc[k'], (access_emc_powered v hb hne' hon).2, ?_⟩
    rw [(access_emc_powered v (st := { st with emc := st.emc.set k v }) hb hne' hon).2]
    simp only [Fin.getElem_fin, Vector.getElem_set_ne _ _ hk]

end emc

/-- EMCStatus (log entry 12). -/
theorem emcRegAt_status : EmcRegAt 0xFFE08004 4 1 := ⟨by decide, rfl⟩

theorem access_emcStatus (v : Word) {s : State} (hon : s.sys.pconp.getLsbD 11 = true) :
    memWrite 0xFFE08004 .word v s = .ok () s
      ∧ ∃ x idx, memRead 0xFFE08004 .word s = .ok x { s with freeIdx := idx } ∧ x.extractLsb' 0 3 = 5 := by
  have hat := emcRegAt_status
  rw [memWrite_emc v s hat.inEmc, memRead_emc s hat.inEmc, writeEmc, readEmc, hat.index]
  simp only [State.emcPowered, hon, Bool.not_true, Bool.false_eq_true, if_false, if_true, true_and]
  exact readBits_field (5 : BitVec 3) s (by decide) (by decide)

/-- Settles O60: the external interrupt registers, the pin connect block, and the EMC through its table. -/
theorem pinAndInterruptRegisterWrites : Obligations.PinAndInterruptRegisterWrites := by
  unfold Obligations.PinAndInterruptRegisterWrites
  intro s v sys active gives emc
  have hlisted : ∀ a ∈ emc, a ∈ emcTable.map emcAddress ∧ a ≠ 0xFFE08004 := fun a ha => by
    have hall : emc.all (fun a => (emcTable.map emcAddress).contains a && a != 0xFFE08004) = true := rfl
    obtain ⟨hmem, hne⟩ := Bool.and_eq_true_iff.mp (List.all_eq_true.mp hall a ha)
    exact ⟨List.contains_iff_mem.mp hmem, bne_iff_ne.mp hne⟩
  have hcomplete : ∀ e ∈ emcTable, emcAddress e ∈ (0xFFE08004 : Word) :: emc := fun e he => by
    have hall : emcTable.all (fun e => ((0xFFE08004 : Word) :: emc).contains (emcAddress e)) = true := rfl
    exact List.contains_iff_mem.mp (List.all_eq_true.mp hall e he)
  have hregister {a : Word} (ha : a ∈ emc) : ∃ off k, EmcRegAt a off k ∧ off ≠ 4 := by
    obtain ⟨hmem, hstatus⟩ := hlisted a ha
    obtain ⟨e, he, rfl⟩ := List.mem_map.mp hmem
    obtain ⟨k, hat⟩ := emcRegAt_of_entry he
    refine ⟨e.1, k, hat, fun h4 => hstatus (BitVec.eq_of_toNat_eq ?_)⟩
    rw [hat.inEmc.1, h4]
    rfl
  refine ⟨⟨_, memWrite_sysReg v s sysRegAt_extint nofun, fun k hk => ?_⟩, memWrite_sysReg v s sysRegAt_intwake nofun,
    ⟨_, _, memWrite_sysReg v s sysRegAt_extmode nofun, fun k hk h => ?_⟩,
    ⟨_, _, memWrite_sysReg v s sysRegAt_extpolar nofun, fun k hk h => ?_⟩,
    gives_of_readBits (memRead_sysReg s sysRegAt_extint) rfl, gives_of_readBits (memRead_sysReg s sysRegAt_intwake) rfl,
    gives_of_readBits (memRead_sysReg s sysRegAt_extmode) rfl, gives_of_readBits (memRead_sysReg s sysRegAt_extpolar) rfl,
    fun n hn => pinsel_access v s hn, (pinsel10_access v s).1, (pinsel10_access v s).2, pinmode_access v s,
    fun hoff => ?unpowered, fun hon => ⟨fun a ha => ?powered, access_emcStatus v hon⟩, fun off hoff h4 hgap => ?gap⟩
  · have hflag := extintCleared_iff (st := s.disarmed) (v := v) hk
    rw [eintActive_iff] at hflag
    exact hflag
  · exact extintDisturbed_unchanged (st := s.disarmed) hk ((extract_low4_getLsbD v hk).trans h)
  · exact extintDisturbed_unchanged (st := s.disarmed) hk ((extract_low4_getLsbD v hk).trans h)
  case unpowered =>
    refine List.forall_mem_cons.mpr ⟨access_emc_unpowered v emcRegAt_status hoff, fun a ha => ?_⟩
    obtain ⟨_, _, hat, -⟩ := hregister ha
    exact access_emc_unpowered v hat hoff
  case powered =>
    obtain ⟨_, k, hat, hne⟩ := hregister ha
    obtain ⟨hwrite, hread, hothers⟩ := emc_store v hon hat hne
    refine ⟨s.emc.set k v, hwrite, hread, fun b hb hba => ?_⟩
    obtain ⟨_, _, hbat, hbne⟩ := hregister hb
    exact hothers b _ _ hbat hbne hba
  case gap =>
    refine access_emc_gap v ⟨toNat_emcOffset hoff, hoff, h4⟩ ?_
    refine Option.eq_none_iff_forall_ne_some.mpr fun k hk => hgap ?_
    obtain ⟨hlt, heq⟩ := emcIndex_some hk
    rw [← heq]
    exact hcomplete _ (List.getElem_mem hlt)

end Sys2Proof.Machine
end

section
/-! PROOFS. The reset state (70_reset_and_hazards.md R631 to R635): its invariants, its register values, and the EMC registers
as they are read at their addresses (61_platform_devices.md R546). -/
namespace Sys2Proof.Machine

theorem emcTable_offsets_nodup : (emcTable.map Prod.fst).Nodup := by decide

/-- The reset value of the register that an entry of the table names. -/
theorem emcReset_of_entry {e : Nat × Word} {k : Fin 54} (he : e ∈ emcTable) (hk : emcIndex e.1 = some k.val) :
    emcReset[k] = e.2 := by
  obtain ⟨hlt, hoff⟩ := emcIndex_some hk
  have hentry : emcTable[k.val] = e :=
    List.inj_on_of_nodup_map emcTable_offsets_nodup (List.getElem_mem hlt) he hoff
  rw [emcReset, Fin.getElem_fin, Vector.getElem_ofFn, List.getD_eq_getElem _ _ hlt, hentry]

/-- The table of R546 gives `e.2` for the register at offset `e.1`, and that register is not EMCStatus. -/
def emcListed (e : Word × Word) : Bool := emcTable.contains (e.1.toNat, e.2) && e.1.toNat != 4

/-- After reset each EMC register but EMCStatus reads its value of R546. -/
theorem memRead_emc_reset {e : Word × Word} (h : emcListed e = true) :
    memRead (0xFFE08000 + e.1) .word State.reset = .ok e.2 State.reset := by
  obtain ⟨hcontains, hne⟩ := Bool.and_eq_true_iff.mp h
  have hmem := List.contains_iff_mem.mp hcontains
  obtain ⟨k, hat⟩ := emcRegAt_of_entry hmem
  have haddress : emcAddress (e.1.toNat, e.2) = 0xFFE08000 + e.1 := by
    rw [emcAddress, BitVec.ofNat_toNat, BitVec.setWidth_eq]
  have hread := (access_emc_powered e.2 (st := State.reset) hat (bne_iff_ne.mp hne) rfl).2
  rw [haddress] at hread
  exact hread.trans (congrArg (Access.ok · _) (emcReset_of_entry hmem hat.index))

/-- Settles O6: the values as they stand in the reset state, and the EMC registers through their table. -/
theorem resetIsLegal : Obligations.ResetIsLegal := by
  unfold Obligations.ResetIsLegal
  refine ⟨by decide, by decide, rfl, rfl, rfl, rfl, rfl, rfl, rfl, rfl, rfl, rfl, rfl, rfl, rfl, rfl,
    fun n => ⟨Vector.getElem_replicate _, Vector.getElem_replicate _⟩, rfl, rfl, rfl, rfl, rfl, rfl, rfl, rfl, rfl, rfl, rfl, rfl,
    rfl, rfl, rfl, rfl, rfl, rfl, rfl, rfl, rfl, rfl, rfl, fun n _ => Vector.getElem_replicate _, rfl,
    fun n => Vector.getElem_replicate _, rfl, fun e he => memRead_emc_reset ?single, fun n hn e he => ?perBank, ?status⟩
  case single =>
    revert e
    exact List.all_eq_true.mp rfl
  case perBank =>
    rw [BitVec.add_assoc]
    refine memRead_emc_reset (e := (e.1 + 0x20 * n, e.2)) ?_
    revert e
    refine List.all_eq_true.mp ?_
    revert n
    exact List.all_eq_true.mp rfl
  case status =>
    obtain ⟨-, x, idx, hread, hfield⟩ := access_emcStatus 0 (s := State.reset) rfl
    exact ⟨x, _, hread, hfield⟩

end Sys2Proof.Machine
end

section
/-! PROOFS. The operand restrictions (70_reset_and_hazards.md R651): what each check forbids, and the refusal of an ill-formed
instruction whose condition passes. -/
namespace Sys2Proof.Machine

/-! ### The checks -/

theorem firstFailing_eq_none_iff {checks : List (Bool × IllFormed)} :
    firstFailing checks = none ↔ ∀ check ∈ checks, ¬ check.1 = true := by
  induction checks with
  | nil => exact ⟨fun _ _ => nofun, fun _ => rfl⟩
  | cons check rest ih =>
    rw [firstFailing, List.forall_mem_cons]
    by_cases hbad : check.1 = true
    · rw [if_pos hbad]
      exact ⟨nofun, fun h => absurd hbad h.1⟩
    · rw [if_neg hbad, ih]
      exact (and_iff_right hbad).symm

/-- Two checks pass together if neither fails; a list of checks is taken apart by this. -/
theorem firstFailing_cons {bad : Bool} {why : IllFormed} {rest : List (Bool × IllFormed)} {p : Prop}
    (hrest : firstFailing rest = none ↔ ¬ p) : firstFailing ((bad, why) :: rest) = none ↔ ¬ (bad = true ∨ p) := by
  rw [firstFailing_eq_none_iff, List.forall_mem_cons, ← firstFailing_eq_none_iff, hrest, not_or]

theorem firstFailing_single {bad : Bool} {why : IllFormed} : firstFailing [(bad, why)] = none ↔ ¬ bad = true := by
  rw [firstFailing_eq_none_iff, List.forall_mem_singleton]

/-- R15 is one of the registers `used`. -/
def NamesPc : List RegNum → Prop
  | [] => False
  | [r] => r = 15
  | r :: rest => r = 15 ∨ NamesPc rest

theorem contains_pc_iff {used : List RegNum} : used.contains 15 = true ↔ NamesPc used := by
  induction used using NamesPc.induct with
  | case1 => exact ⟨nofun, nofun⟩
  | case2 r => rw [List.contains_iff_mem, List.mem_singleton]; exact eq_comm
  | case3 r rest hrest ih =>
    rw [List.contains_iff_mem, List.mem_cons, ← List.contains_iff_mem, ih, NamesPc, eq_comm]
    exact hrest

theorem checkShiftReg_none_iff {used : List RegNum} : checkShiftReg used = none ↔ ¬ NamesPc used := by
  rw [checkShiftReg, firstFailing_single, contains_pc_iff]

theorem checkMultiply_none_iff {rd rm : RegNum} {used : List RegNum} :
    checkMultiply rd rm used = none ↔ ¬ (NamesPc used ∨ rd = rm) := by
  rw [checkMultiply, firstFailing_cons firstFailing_single, contains_pc_iff, beq_iff_eq]

theorem checkMultiplyLong_none_iff {rdHi rdLo rs rm : RegNum} :
    checkMultiplyLong rdHi rdLo rs rm = none
      ↔ ¬ (NamesPc [rdHi, rdLo, rs, rm] ∨ rdHi = rdLo ∨ rdHi = rm ∨ rdLo = rm) := by
  rw [checkMultiplyLong, firstFailing_cons firstFailing_single, contains_pc_iff, Bool.or_eq_true, Bool.or_eq_true,
    beq_iff_eq, beq_iff_eq, beq_iff_eq, or_assoc]

theorem checkSwap_none_iff {rn rd rm : RegNum} :
    checkSwap rn rd rm = none ↔ ¬ (NamesPc [rn, rd, rm] ∨ rn = rm ∨ rn = rd) := by
  rw [checkSwap, firstFailing_cons firstFailing_single, contains_pc_iff, Bool.or_eq_true, beq_iff_eq, beq_iff_eq]

theorem checkTransfer_none_iff {narrow wb : Bool} {rn rd : RegNum} {rm : Option RegNum} :
    checkTransfer narrow wb rn rd rm = none
      ↔ ¬ ((narrow = true ∧ rd = 15) ∨ rm = some 15 ∨ (wb = true ∧ (rn = 15 ∨ rn = rd))) := by
  rw [checkTransfer, firstFailing_cons (firstFailing_cons (firstFailing_cons firstFailing_single)), Bool.and_eq_true,
    Bool.and_eq_true, Bool.and_eq_true, beq_iff_eq, beq_iff_eq, beq_iff_eq, beq_iff_eq, and_or_left]

theorem checkLdm_none_iff {sb w : Bool} {rn : RegNum} {list : BitVec 16} :
    checkLdm sb w rn list = none ↔ ¬ (list = 0 ∨ rn = 15 ∨ (w = true ∧ list.getLsbD rn.toNat = true)
      ∨ (sb = true ∧ w = true ∧ list.getLsbD 15 = false)) := by
  rw [checkLdm, firstFailing_cons (firstFailing_cons (firstFailing_cons firstFailing_single)), Bool.and_eq_true,
    Bool.and_eq_true, Bool.and_eq_true, beq_iff_eq, beq_iff_eq, Bool.not_eq_true', and_assoc, inList]

/-- A listed register is the lowest of the list unless a smaller one is listed (R224). -/
theorem lowestInList_eq_false_iff {list : BitVec 16} {r : RegNum} (h : inList list r = true) :
    (!lowestInList list r) = true ↔ ∃ k, k < r.toNat ∧ list.getLsbD k = true := by
  simp only [lowestInList, h, Bool.true_and, Bool.not_eq_true', List.all_eq_false, List.mem_range,
    Bool.not_eq_false]

theorem checkStm_none_iff {sb w : Bool} {rn : RegNum} {list : BitVec 16} :
    checkStm sb w rn list = none ↔ ¬ (list = 0 ∨ rn = 15 ∨ (sb = true ∧ w = true)
      ∨ (w = true ∧ list.getLsbD rn.toNat = true ∧ ∃ k, k < rn.toNat ∧ list.getLsbD k = true)) := by
  rw [checkStm, firstFailing_cons (firstFailing_cons (firstFailing_cons firstFailing_single)), Bool.and_eq_true,
    Bool.and_eq_true, Bool.and_eq_true, beq_iff_eq, beq_iff_eq, and_assoc (a := w = true)]
  have hlow : (inList list rn = true ∧ (!lowestInList list rn) = true)
      ↔ (list.getLsbD rn.toNat = true ∧ ∃ k, k < rn.toNat ∧ list.getLsbD k = true) :=
    and_congr_right fun hin => lowestInList_eq_false_iff hin
  rw [hlow]

theorem checkCoprocessorTransfer_none_iff {p u w : Bool} :
    checkCoprocessorTransfer p u w = none ↔ ¬ (p = false ∧ u = false ∧ w = false) := by
  rw [checkCoprocessorTransfer, firstFailing_single, Bool.and_eq_true, Bool.and_eq_true, Bool.not_eq_true',
    Bool.not_eq_true', Bool.not_eq_true', and_assoc]

/-! ### The refusal -/

theorem illFormed_of_isPseudo {i : Instr} (h : i.isPseudo = true) : i.illFormed = none := by
  cases i
  case nop | adr | adrl | ldrPseudo => rfl
  all_goals cases h

/-- An ill-formed instruction whose condition passes is refused for its reason (R651, log entry 10). -/
theorem exec_refused {i : Instr} {c : Cond} {why : IllFormed} {s : State} (hc : i.cond? = some c) (hpass : s.passes c = true)
    (hill : i.illFormed = some why) : exec i s = .refused (.unpredictable why) := by
  cases hp : i.isPseudo with
  | true =>
    rw [illFormed_of_isPseudo hp] at hill
    cases hill
  | false =>
    obtain ⟨act, hexec⟩ := exec_eq_conditional hp hc
    rw [hexec, conditional, if_pos hpass, operandFault, hill]

/-- `i` is ill formed exactly when `bad` holds, and is then refused. -/
def Limited (s : State) (i : Instr) (bad : Prop) : Prop :=
  (i.wellFormed = true ↔ ¬ bad) ∧ (bad → ∃ why, exec i s = .refused (.unpredictable why))

theorem wellFormed_iff {i : Instr} : i.wellFormed = true ↔ i.illFormed = none := Option.isNone_iff_eq_none

theorem limited_of_check {s : State} {c : Cond} {check : Option IllFormed} {bad : Prop} (hpass : s.passes c = true)
    (hcheck : check = none ↔ ¬ bad) {i : Instr} (hi : (i.illFormed, i.cond?) = (check, some c)) : Limited s i bad := by
  obtain ⟨hill, hcond⟩ := Prod.mk.inj hi
  refine ⟨by rw [wellFormed_iff, hill, hcheck], fun hbad => ?_⟩
  cases hwhy : check with
  | none => exact absurd hbad (hcheck.mp hwhy)
  | some why => exact ⟨why, exec_refused hcond hpass (hill.trans hwhy)⟩

/-- The members of a list that all have the same check and condition. -/
theorem limited_of_checks {s : State} {c : Cond} {check : Option IllFormed} {bad : Prop} (hpass : s.passes c = true)
    (hcheck : check = none ↔ ¬ bad) {instrs : List Instr}
    (hall : instrs.map (fun i => (i.illFormed, i.cond?)) = List.replicate instrs.length (check, some c)) :
    ∀ i ∈ instrs, Limited s i bad := fun i hi =>
  limited_of_check hpass hcheck (List.map_eq_replicate_iff.mp hall i hi)

/-- The instructions without a restriction. -/
theorem limited_of_unrestricted {s : State} {instrs : List Instr}
    (hall : instrs.map Instr.illFormed = List.replicate instrs.length none) : ∀ i ∈ instrs, Limited s i False := fun i hi =>
  ⟨by rw [wellFormed_iff, List.map_eq_replicate_iff.mp hall i hi, not_false_eq_true, eq_self_iff_true], False.elim⟩

/-- Settles O15: each family has one check, and each check fails in the written-out combinations only. -/
theorem restrictedOperandsAreRefused : Obligations.RestrictedOperandsAreRefused := by
  unfold Obligations.RestrictedOperandsAreRefused
  refine ⟨fun i c why s => exec_refused, ?_⟩
  intro s c sb p u w rn rd rs rm imm imm2 si sr i8 i12 list off op1 crn crd cp crm k1 op2 hi value hpass limited
  have htransfer {narrow wb : Bool} {rm : Option RegNum} {bad : Prop}
      (h : ((narrow = true ∧ rd = 15) ∨ rm = some 15 ∨ (wb = true ∧ (rn = 15 ∨ rn = rd))) ↔ bad) :
      checkTransfer narrow wb rn rd rm = none ↔ ¬ bad := checkTransfer_none_iff.trans (not_congr h)
  refine ⟨limited_of_checks hpass (checkShiftReg_none_iff (used := [rn, rd, sr.rm, sr.rs])) rfl,
    limited_of_checks hpass (checkShiftReg_none_iff (used := [rd, sr.rm, sr.rs])) rfl,
    limited_of_checks hpass (checkShiftReg_none_iff (used := [rn, sr.rm, sr.rs])) rfl,
    limited_of_check hpass (checkMultiply_none_iff.trans (not_congr (by simp only [NamesPc, or_assoc]))) rfl,
    limited_of_check hpass (checkMultiply_none_iff.trans (not_congr (by simp only [NamesPc, or_assoc]))) rfl,
    limited_of_checks hpass (checkMultiplyLong_none_iff.trans (not_congr (by simp only [NamesPc, or_assoc]))) rfl,
    limited_of_checks hpass (checkSwap_none_iff.trans (not_congr (by simp only [NamesPc, or_assoc]))) rfl,
    limited_of_checks hpass (htransfer (by simp)) rfl, limited_of_checks hpass (htransfer (by simp)) rfl,
    limited_of_checks hpass (htransfer (by simp)) rfl, limited_of_checks hpass (htransfer (by simp)) rfl,
    limited_of_checks hpass (htransfer (by simp)) rfl, limited_of_checks hpass (htransfer (by simp)) rfl,
    limited_of_checks hpass (htransfer (by simp)) rfl, limited_of_checks hpass (htransfer (by simp)) rfl,
    limited_of_checks hpass (htransfer (by simp)) rfl, limited_of_checks hpass (htransfer (by simp)) rfl,
    limited_of_check hpass checkLdm_none_iff rfl, limited_of_check hpass checkStm_none_iff rfl,
    limited_of_check hpass (firstFailing_single.trans (not_congr beq_iff_eq)) rfl,
    limited_of_check hpass (firstFailing_single.trans (not_congr beq_iff_eq)) rfl,
    limited_of_check hpass (firstFailing_single.trans (not_congr beq_iff_eq)) rfl,
    limited_of_checks hpass checkCoprocessorTransfer_none_iff rfl, limited_of_unrestricted rfl⟩

end Sys2Proof.Machine
end

section
/-! PROOFS. The pseudo-instructions (49_assembler_and_pseudo.md R380 to R384): the rotated immediate that stands for a value,
and the instructions they expand to. -/
namespace Sys2Proof.Machine

/-! ### Rotated immediates -/

theorem rotateRight_rotateLeft (v : Word) {n : Nat} (hn : n < 32) : (v.rotateLeft n).rotateRight n = v := by
  refine BitVec.eq_of_getLsbD_eq fun k hk => ?_
  simp only [BitVec.getLsbD_rotateRight, BitVec.getLsbD_rotateLeft, Nat.mod_eq_of_lt hn, Bool.cond_eq_ite,
    decide_eq_true_eq]
  by_cases hlow : k < 32 - n
  · rw [if_pos hlow, if_neg (by omega), decide_eq_true (by omega), Bool.true_and, Nat.add_sub_cancel_left]
  · rw [if_neg hlow, if_pos (by omega), decide_eq_true hk, Bool.true_and, show 32 - n + (k - (32 - n)) = k by omega]

theorem rotateLeft_rotateRight (v : Word) {n : Nat} (hn : n < 32) : (v.rotateRight n).rotateLeft n = v := by
  refine BitVec.eq_of_getLsbD_eq fun k hk => ?_
  simp only [BitVec.getLsbD_rotateRight, BitVec.getLsbD_rotateLeft, Nat.mod_eq_of_lt hn, Bool.cond_eq_ite,
    decide_eq_true_eq]
  by_cases hlow : k < n
  · rw [if_pos hlow, if_neg (by omega), decide_eq_true (by omega), Bool.true_and, Nat.add_sub_cancel_left]
  · rw [if_neg hlow, if_pos (by omega), decide_eq_true hk, Bool.true_and, show n + (k - n) = k by omega]

/-- What the assembler finds has the value (R126). -/
theorem rotImmFor_some {v : Word} {op : RotImm} (h : rotImmFor v = some op) : rotImmValue op = v := by
  obtain ⟨r, hr, hfound⟩ := List.exists_of_findSome?_eq_some h
  have hr := List.mem_range.mp hr
  split at hfound
  · next hsmall =>
    obtain rfl := Option.some.inj hfound
    have himm : ((v.rotateLeft (2 * r)).extractLsb' 0 8).setWidth 32 = v.rotateLeft (2 * r) := by
      refine BitVec.eq_of_toNat_eq ?_
      rw [BitVec.toNat_setWidth, BitVec.extractLsb'_toNat, Nat.shiftRight_zero]
      omega
    have hrot : (BitVec.ofNat 4 r).toNat = r := by
      rw [BitVec.toNat_ofNat]
      omega
    simp only [rotImmValue, himm, hrot]
    exact rotateRight_rotateLeft v (by omega)
  · cases hfound

/-- Every value of a rotated immediate is found. -/
theorem rotImmFor_none {v : Word} (h : rotImmFor v = none) (op : RotImm) : rotImmValue op ≠ v := by
  rintro rfl
  have hrot := op.rot.isLt
  have hstep := List.findSome?_eq_none_iff.mp h op.rot.toNat (List.mem_range.mpr hrot)
  have himm := op.imm8.isLt
  rw [if_pos] at hstep
  · cases hstep
  · rw [rotImmValue, rotateLeft_rotateRight _ (by omega), BitVec.toNat_setWidth]
    omega

/-! ### The instructions of the expansions -/

theorem readReg_pc (s : State) : s.readReg 15 = s.pc + 8 := rfl

/-- The state after an instruction that puts `v` into `rd` and does nothing else. -/
structure Puts (s t : State) (rd : RegNum) (v : Word) : Prop where
  change : RegsChange s t
  value : t.reg rd = v
  pc : t.pc = s.pc + 4
  kept : RegistersKept s t [rd]

/-- A data-processing instruction without S, into a register. -/
theorem conditional_dataProcess_puts {c : Cond} {i : Instr} {s : State} {f : AluOp} {rn rd : RegNum}
    {o : State → Shifted} (hpass : s.passes c = true) (hi : i.illFormed = none) (hrd : rd ≠ 15)
    (hpc : s.pc ≠ 0xFFFFFFFC) :
    ∃ t, (conditional c i s fun st => dataProcess f false rn rd (o st) st) = .next t
      ∧ Puts s t rd (f (s.readReg rn) (o s) s.flags).value := by
  obtain ⟨t, hnext, hchange, hvalue, hpc', hkept⟩ := advance_setReg hrd hpc (f (s.readReg rn) (o s) s.flags).value
  refine ⟨t, ?_, hchange, hvalue, hpc', hkept⟩
  rw [conditional_run hpass hi, dataProcess, writeAlu, if_neg hrd]
  exact hnext

/-- ADD or SUB of a rotated immediate: base plus or minus its value. -/
theorem addOffset_puts {c : Cond} {s : State} (u : Bool) (rn : RegNum) {rd : RegNum} (op : RotImm)
    (hpass : s.passes c = true) (hrd : rd ≠ 15) (hpc : s.pc ≠ 0xFFFFFFFC) :
    ∃ t, (if u then execAddImm c false rn rd op s else execSubImm c false rn rd op s) = .next t
      ∧ Puts s t rd (offsetSum u (s.readReg rn) (rotImmValue op)) := by
  cases u with
  | true =>
    obtain ⟨t, hnext, hputs⟩ := conditional_dataProcess_puts (i := .addImm c false rn rd op) (f := aluAdd) (rn := rn)
      (o := fun st => rotImmShifted op st.flags.c) hpass rfl hrd hpc
    rw [aluAdd, addResult_without_carry_eq] at hputs
    exact ⟨t, hnext, hputs⟩
  | false =>
    obtain ⟨t, hnext, hputs⟩ := conditional_dataProcess_puts (i := .subImm c false rn rd op) (f := aluSub) (rn := rn)
      (o := fun st => rotImmShifted op st.flags.c) hpass rfl hrd hpc
    rw [aluSub, subResult_value] at hputs
    exact ⟨t, hnext, hputs⟩

theorem RegsChange.passes {s t : State} (h : RegsChange s t) (c : Cond) : t.passes c = s.passes c := by
  obtain ⟨_, _, rfl⟩ := h
  rfl

/-- Two changes of the same registers. -/
theorem RegistersKept.trans_same {s t u : State} {written : List RegNum} (h : RegistersKept s t written)
    (hmode : t.mode = s.mode) (h' : RegistersKept t u written) : RegistersKept s u written := fun m r hr hout =>
  (h' m r hr (by rw [hmode]; exact hout)).trans (h m r hr hout)

/-- ADRL: the first instruction gives the base of the second (R383). -/
theorem execAdrl_next {c : Cond} {s : State} (u : Bool) {rd : RegNum} (op1 op2 : RotImm) (hpass : s.passes c = true)
    (hrd : rd ≠ 15) (hpc : s.pc ≠ 0xFFFFFFFC) (hpc' : s.pc + 4 ≠ 0xFFFFFFFC) :
    ∃ t, execAdrl c rd u op1 op2 s = .next t
      ∧ t.reg rd = offsetSum u (offsetSum u (s.pc + 8) (rotImmValue op1)) (rotImmValue op2) ∧ t.pc = s.pc + 8
      ∧ t.cpsr = s.cpsr ∧ OnlyRegisters s t [rd] := by
  obtain ⟨s1, hfirst, hchange, hvalue, hpc1, hkept⟩ := addOffset_puts u 15 op1 hpass hrd hpc
  obtain ⟨t, hsecond, hchange', hvalue', hpc2, hkept'⟩ :=
    addOffset_puts u rd op2 ((hchange.passes c).trans hpass) hrd (hpc1 ▸ hpc')
  have hboth := hchange.trans hchange'
  refine ⟨t, ?_, ?_, ?_, hboth.cpsr, hboth.onlyRegisters (hkept.trans_same hchange.mode hkept')⟩
  · rw [execAdrl, hfirst]
    simp only [hrd, false_and, if_false]
    exact hsecond
  · rw [hvalue', readReg_of_ne _ hrd, hvalue, readReg_pc]
  · rw [hpc2, hpc1, BitVec.add_assoc]
    rfl

/-- With Rd = R15 the first instruction of ADRL is all there is to it (log entry 13). -/
theorem execAdrl_pc {c : Cond} {s : State} (u : Bool) (op1 op2 : RotImm) (hpass : s.passes c = true) :
    execAdrl c 15 u op1 op2 s = execAdr c 15 u op1 s := by
  unfold execAdrl execAdr
  generalize (if u then execAddImm c false 15 15 op1 s else execSubImm c false 15 15 op1 s) = first
  cases first with
  | next s1 => exact if_pos ⟨rfl, hpass⟩
  | fault f => rfl
  | refused r => rfl

/-- MOV R0,R0 writes back what R0 holds (R384). -/
theorem setReg_readReg_zero (s : State) : s.setReg 0 (s.readReg 0) = s := by
  rw [readReg_of_ne _ (by decide), State.reg, regIn_of_ne _ _ _ (by decide), State.setReg,
    setRegIn_of_ne _ _ (by decide), Fin.getElem_fin, Vector.set_getElem_self]

theorem execNop_next {s : State} (hpc : s.pc ≠ 0xFFFFFFFC) : execNop s = .next { s with pc := s.pc + 4 } := by
  have hrun : execNop s = advance (s.setReg 0 (s.readReg 0)) := rfl
  rw [hrun, setReg_readReg_zero, advance_of_ne hpc]

/-! ### LDR Rd,=value -/

section literal
variable {c : Cond} {rd : RegNum} {value : Word} {u : Bool} {off : BitVec 12} {op : RotImm}

/-- What `LDR Rd,=value` stands for (R381). -/
theorem expand_ldrPseudo :
    (Instr.ldrPseudo c rd value u off).expand =
      [match rotImmFor value, rotImmFor (~~~value) with
        | some op, _ => .movImm c false rd op
        | none, some op => .mvnImm c false rd op
        | none, none => .ldrImmPre c u false 15 rd off] := by
  cases h : rotImmFor value <;> cases h' : rotImmFor (~~~value) <;> simp only [Instr.expand, h, h']

theorem exec_ldrPseudo (s : State) {j : Instr} (h : (Instr.ldrPseudo c rd value u off).expand = [j]) :
    exec (.ldrPseudo c rd value u off) s = exec j s := by
  rw [expand_ldrPseudo] at h
  obtain rfl := List.singleton_inj.mp h
  show execLdrPseudo c rd value u off s = _
  cases h : rotImmFor value <;> cases h' : rotImmFor (~~~value) <;> simp only [execLdrPseudo, h, h'] <;> rfl

end literal

/-- One instruction that a pseudo-instruction stands for is what it does (R381, R382, R384). -/
theorem exec_expand_single {i j : Instr} (hi : i.isPseudo = true) (h : i.expand = [j]) (s : State) :
    exec i s = exec j s := by
  cases i
  case ldrPseudo => exact exec_ldrPseudo s h
  case adr c rd u op => cases u <;> · obtain rfl := List.singleton_inj.mp h; rfl
  case adrl c rd u op1 op2 => cases u <;> cases h
  case nop => obtain rfl := List.singleton_inj.mp h; rfl
  all_goals cases hi

section literal
variable {c : Cond} {rd : RegNum} {value : Word} {s : State} (u : Bool) (off : BitVec 12) (hpass : s.passes c = true)
  (hrd : rd ≠ 15) (hpc : s.pc ≠ 0xFFFFFFFC)
include hpass hrd hpc

/-- A value that MOV or MVN can give is given without a load. -/
theorem ldrPseudo_immediate (h : ∃ op : RotImm, rotImmValue op = value ∨ rotImmValue op = ~~~value) :
    ∃ t, exec (.ldrPseudo c rd value u off) s = .next t ∧ Puts s t rd value := by
  cases hmov : rotImmFor value with
  | some op =>
    rw [exec_ldrPseudo s (j := .movImm c false rd op) (by rw [expand_ldrPseudo, hmov])]
    have hputs := conditional_dataProcess_puts (i := .movImm c false rd op) (f := aluMov) (rn := 0)
      (o := fun st => rotImmShifted op st.flags.c) hpass rfl hrd hpc
    rw [← rotImmFor_some hmov]
    exact hputs
  | none =>
    cases hmvn : rotImmFor (~~~value) with
    | some op =>
      rw [exec_ldrPseudo s (j := .mvnImm c false rd op) (by rw [expand_ldrPseudo, hmov, hmvn])]
      have hputs := conditional_dataProcess_puts (i := .mvnImm c false rd op) (f := aluMvn) (rn := 0)
        (o := fun st => rotImmShifted op st.flags.c) hpass rfl hrd hpc
      have hvalue : ~~~(rotImmValue op) = value := by rw [rotImmFor_some hmvn, BitVec.not_not]
      rw [← hvalue]
      exact hputs
    | none =>
      obtain ⟨op, h | h⟩ := h
      · exact absurd h (rotImmFor_none hmov op)
      · exact absurd h (rotImmFor_none hmvn op)

/-- Any other value is loaded from the literal pool. -/
theorem ldrPseudo_pool (h : ∀ op : RotImm, rotImmValue op ≠ value ∧ rotImmValue op ≠ ~~~value) {p : Nat}
    (hr : remap s.sys.memmap (offsetSum u (s.pc + 8) (offset12 off)) = some p) (hm : plainMemory p) (h4 : p % 4 = 0) :
    ∃ t, exec (.ldrPseudo c rd value u off) s = .next t ∧ t.reg rd = s.wordAt p ∧ t.pc = s.pc + 4 ∧ t.cpsr = s.cpsr
      ∧ OnlyRegisters s t [rd] := by
  have hnone {v : Word} (hv : ∀ op, rotImmValue op ≠ v) : rotImmFor v = none :=
    Option.eq_none_iff_forall_ne_some.mpr fun op hop => hv op (rotImmFor_some hop)
  rw [exec_ldrPseudo s (j := .ldrImmPre c u false 15 rd off)
    (by rw [expand_ldrPseudo, hnone fun op => (h op).1, hnone fun op => (h op).2])]
  have hready : Ready (.ldrImmPre c u false 15 rd off) s := ⟨rfl, fun _ hc => Option.some.inj hc ▸ hpass⟩
  have hloads := (loads_word fun hready => runsLoad_of_ready (i := .ldrImmPre c u false 15 rd off)
    (m := preIndexed u false (s.readReg 15) (offset12 off)) (rn := 15) (rd := rd) hready rfl (fun _ => rfl) rfl
    fun hi => baseAllowed_pre hi).1
  obtain ⟨t, hnext, hvalue, -, hpc', hcpsr, honly, -⟩ := (hloads hready p hr hm h4).1 hrd hpc
  exact ⟨t, hnext, hvalue, hpc', hcpsr, honly⟩

end literal

theorem Puts.frame {s t : State} {rd : RegNum} {v : Word} (h : Puts s t rd v) :
    t.reg rd = v ∧ t.pc = s.pc + 4 ∧ t.cpsr = s.cpsr ∧ OnlyRegisters s t [rd] :=
  ⟨h.value, h.pc, h.change.cpsr, h.change.onlyRegisters h.kept⟩

/-- Settles O45: each pseudo-instruction by its expansion, and the value it leaves. -/
theorem pseudoInstructions : Obligations.PseudoInstructions := by
  unfold Obligations.PseudoInstructions
  intro c rd u op1 op2 value off s hpc
  refine ⟨fun i j hi hj => exec_expand_single hi hj s, fun hpass hrd => hrd ▸ execAdrl_pc u op1 op2 hpass,
    execNop_next hpc, fun hpass hrd => ⟨?adr, execAdrl_next u op1 op2 hpass hrd hpc, fun h => ?immediate,
      fun h p hr hm h4 => ldrPseudo_pool u off hpass hrd hpc h hr hm h4⟩⟩
  case adr =>
    obtain ⟨t, hnext, hputs⟩ := addOffset_puts u 15 op1 hpass hrd hpc
    exact ⟨t, hnext, hputs.frame⟩
  case immediate =>
    obtain ⟨t, hnext, hputs⟩ := ldrPseudo_immediate u off hpass hrd hpc h
    exact ⟨t, hnext, hputs.frame⟩

end Sys2Proof.Machine
end

section
/-! PROOFS. The Data Abort part-way through LDM and STM (60_exceptions.md R434, 41_load_store.md R222 to R224): what was
transferred before the word that aborts, and the entry into Abort mode. -/
namespace Sys2Proof.Machine

/-! ### The list up to the word that aborts -/

theorem loadRegs_append {user : Bool} {xs : List RegNum} (ys : List RegNum) {a b : Word} {s t : State}
    (h : loadRegs user xs a s = .ok b t) : loadRegs user (xs ++ ys) a s = loadRegs user ys b t := by
  induction xs generalizing a s with
  | nil =>
    obtain ⟨rfl, rfl⟩ := Access.ok.inj h
    rfl
  | cons r rest ih =>
    rw [List.cons_append]
    cases haccess : memRead a .word s with
    | stop f => simp only [loadRegs, haccess, reduceCtorEq] at h
    | abort dev => simp only [loadRegs, haccess, reduceCtorEq] at h
    | ok v dev =>
      simp only [loadRegs, haccess] at h ⊢
      exact ih h

theorem storeRegs_append {user : Bool} {xs : List RegNum} (ys : List RegNum) {a b : Word} {s t : State}
    (h : storeRegs user xs a s = .ok b t) : storeRegs user (xs ++ ys) a s = storeRegs user ys b t := by
  induction xs generalizing a s with
  | nil =>
    obtain ⟨rfl, rfl⟩ := Access.ok.inj h
    rfl
  | cons r rest ih =>
    rw [List.cons_append]
    cases haccess : memWrite a .word (if user then s.regIn .user r else s.reg r) s with
    | stop f => simp only [storeRegs, haccess, reduceCtorEq] at h
    | abort dev => simp only [storeRegs, haccess, reduceCtorEq] at h
    | ok v dev =>
      simp only [storeRegs, haccess] at h ⊢
      exact ih h

theorem loadRegs_cons_abort {user : Bool} {r : RegNum} {rest : List RegNum} {a : Word} {s dev : State}
    (h : memRead a .word s = .abort dev) : loadRegs user (r :: rest) a s = .abort dev := by
  simp only [loadRegs, h]

theorem storeRegs_cons_abort {user : Bool} {r : RegNum} {rest : List RegNum} {a : Word} {s dev : State}
    (h : ∀ v, memWrite a .word v s = .abort dev) : storeRegs user (r :: rest) a s = .abort dev := by
  simp only [storeRegs, h]

/-- The word that aborts is that of a register below R15, or it is the last word and R15's. -/
theorem block_cases {list : BitVec 16} {j : Nat} (hj : j < blockCount list) :
    (∃ r rest, blockRegs list = (blockRegs list).take j ++ r :: rest)
      ∨ ((blockRegs list).take j = blockRegs list ∧ list.getLsbD 15 = true) := by
  have hcount := blockCount_eq list
  by_cases hlt : j < (blockRegs list).length
  · refine .inl ⟨(blockRegs list)[j], (blockRegs list).drop (j + 1), ?_⟩
    rw [← List.drop_eq_getElem_cons hlt, List.take_append_drop]
  · refine .inr ⟨List.take_of_length_le (by omega), ?_⟩
    by_contra h15
    rw [if_neg h15] at hcount
    omega

theorem length_take_blockRegs {list : BitVec 16} {j : Nat} (hj : j < blockCount list) :
    ((blockRegs list).take j).length = j := by
  have hcount := blockCount_eq list
  have hbit : (if list.getLsbD 15 = true then 1 else 0) ≤ 1 := by split <;> decide
  exact List.length_take_of_le (by omega)

/-- An LDM whose word `j` is at an unused address: the registers before it are loaded, and the transfer aborts. -/
theorem loadBlock_abort {p u sb w : Bool} {rn : RegNum} {list : BitVec 16} {s : State} {base start : Word}
    (hstart : blockStart p u base (blockCount list) = start) (hfit : BlockStarts sb start (blockCount list) s)
    {j bad : Nat} (hj : j < blockCount list)
    (hmem : ∀ k, k < j → ∃ q, remap s.sys.memmap (start + BitVec.ofNat 32 (4 * k)) = some q ∧ plainMemory q)
    (hr : remap s.sys.memmap (start + BitVec.ofNat 32 (4 * j)) = some bad) (hu : (regionOf bad).kind = .unmapped) :
    ∃ mid, BlockLoaded s mid (transferBank (sb && !list.getLsbD 15) s) ((blockRegs list).take j) start
      ∧ loadBlock p u sb w rn list base s
        = abortTransfer rn (if w then some (blockEnd u base (blockCount list)) else none) (disarmFeed bad mid) := by
  obtain ⟨hspsr, hwraps⟩ := hfit.no_stop
  have hlen := length_take_blockRegs hj
  obtain ⟨mid, hload, hloaded⟩ := loadRegs_memory (user := sb && !list.getLsbD 15)
    (fun r hr => blockRegs_ne_pc (List.mem_of_mem_take hr)) ((blockRegs_nodup list).sublist (List.take_sublist j _))
    fun k hk => hmem k (hlen ▸ hk)
  rw [hlen] at hload
  have habort : memRead (start + BitVec.ofNat 32 (4 * j)) .word mid = .abort (disarmFeed bad mid) := by
    obtain ⟨_, rfl⟩ := hloaded.change
    exact memRead_unmapped hr hu
  refine ⟨mid, hloaded, ?_⟩
  obtain ⟨r, rest, hsplit⟩ | ⟨hall, h15⟩ := block_cases hj
  · have habortAll : loadRegs (sb && !list.getLsbD 15) (blockRegs list) start s = .abort (disarmFeed bad mid) := by
      rw [hsplit, loadRegs_append _ hload, loadRegs_cons_abort habort]
    simp only [loadBlock, hstart, hspsr, hwraps, habortAll, Bool.false_eq_true, if_false]
  · rw [hall] at hload
    simp only [loadBlock, hstart, hspsr, hwraps, hload, Bool.false_eq_true, if_false]
    simp only [finishLdm, h15, habort, if_true]

/-- An STM whose word `j` is at an unused address: the words before it are stored, and the transfer aborts. -/
theorem storeBlock_abort {p u sb w : Bool} {rn : RegNum} {list : BitVec 16} {s : State} (hs : s.memoryLegal = true)
    {base start : Word} (hstart : blockStart p u base (blockCount list) = start)
    (hfit : BlockStarts sb start (blockCount list) s) {j bad : Nat} (hj : j < blockCount list)
    (hram : ∀ k, k < j → ∃ q, remap s.sys.memmap (start + BitVec.ofNat 32 (4 * k)) = some q ∧ plainRam q
      ∧ intoPrefetch (q - q % 4) s = false)
    (hr : remap s.sys.memmap (start + BitVec.ofNat 32 (4 * j)) = some bad) (hu : (regionOf bad).kind = .unmapped) :
    ∃ mid, BlockStored s mid (((blockRegs list).take j).map (s.regIn (transferBank sb s))) start
      ∧ storeBlock p u sb w rn list base s
        = abortTransfer rn (if w then some (blockEnd u base (blockCount list)) else none) (disarmFeed bad mid) := by
  obtain ⟨hspsr, hwraps⟩ := hfit.no_stop
  have hlen := length_take_blockRegs hj
  have hle := blockCount_le list
  obtain ⟨-, hroom⟩ := hfit
  have hfits : BlockFits start ((blockRegs list).take j).length := ⟨by omega, by omega⟩
  obtain ⟨mid, hstore, hstored⟩ := storeRegs_ram (user := sb) hs hfits fun k hk => hram k (hlen ▸ hk)
  rw [hlen] at hstore
  have habort (v : Word) : memWrite (start + BitVec.ofNat 32 (4 * j)) .word v mid = .abort (disarmFeed bad mid) := by
    obtain ⟨_, _, rfl⟩ := hstored.change
    exact memWrite_unmapped hr hu
  refine ⟨mid, hstored, ?_⟩
  obtain ⟨r, rest, hsplit⟩ | ⟨hall, h15⟩ := block_cases hj
  · have habortAll : storeRegs sb (blockRegs list) start s = .abort (disarmFeed bad mid) := by
      rw [hsplit, storeRegs_append _ hstore, storeRegs_cons_abort habort]
    simp only [storeBlock, hstart, hspsr, hwraps, habortAll, Bool.false_eq_true, if_false]
  · rw [hall] at hstore
    simp only [storeBlock, hstart, hspsr, hwraps, hstore, finishStm, h15, habort, Bool.false_eq_true, if_false, if_true]

/-! ### The entry -/

/-- An aborted transfer enters Abort mode from a state that is the access's but for the base, old or written back (D21). -/
theorem abortTransfer_enters {rn : RegNum} (hrn : rn ≠ 15) (wb : Option Word) (dev : State) :
    ∃ s1, abortTransfer rn wb dev = .next (takeException .dataAbort s1)
      ∧ (∃ regs idx, s1 = { dev with regs := regs, freeIdx := idx })
      ∧ RegistersKept dev s1 (if wb.isSome then [rn] else [])
      ∧ ∀ v, wb = some v → s1.regIn dev.mode rn = dev.reg rn ∨ s1.regIn dev.mode rn = v := by
  cases wb with
  | none => exact ⟨dev, rfl, ⟨_, _, rfl⟩, registersKept_of_regs rfl _, nofun⟩
  | some v =>
    by_cases hfree : dev.free.getLsbD 0 = true
    · refine ⟨dev.drawn.setReg rn v, if_pos hfree, ⟨_, _, setRegIn_of_ne _ _ hrn v⟩,
        (registersKept_of_regs (s := dev) rfl []).setReg rfl hrn v, fun v' hv => .inr ?_⟩
      obtain rfl := Option.some.inj hv
      exact regIn_setRegIn_same _ _ _ _
    · exact ⟨dev.drawn, if_neg hfree, ⟨_, _, rfl⟩, registersKept_of_regs rfl _, fun _ _ => .inl rfl⟩

/-- The state `s1` an aborted block transfer enters Abort mode from, `mid` being `s` with what was transferred. -/
structure BlockAborted (s mid s1 : State) (bad : Nat) (rn : RegNum) (wb : Option Word) : Prop where
  cpsr : s1.cpsr = s.cpsr
  spsr : s1.spsr = s.spsr
  devices : DevicesKept { s with sys := { s.sys with feedArmed := s1.sys.feedArmed } } s1
  sys : bad < 0xE0000000 ∨ 0xE0200000 ≤ bad → s1.sys = s.sys
  base : ∀ v, wb = some v → s1.regIn s.mode rn = mid.regIn s.mode rn ∨ s1.regIn s.mode rn = v
  memory : MemoryKept mid s1
  registers : ∀ m r, r ≠ 15 → (wb.isSome = true → physIndex m r ≠ physIndex s.mode rn) → s1.regIn m r = mid.regIn m r

theorem blockAborted_of_abortTransfer {s mid : State} {rn : RegNum} (hrn : rn ≠ 15) {wb : Option Word} {bad : Nat}
    {r : Result} (hr : r = abortTransfer rn wb (disarmFeed bad mid))
    (hmid : ∃ regs mem pending, mid = { s with regs := regs, mem := mem, sramPending := pending }) :
    ∃ s1 t, r = .next t ∧ Entered s1 t .abort (s.pc + 8) 0x10 false ∧ BlockAborted s mid s1 bad rn wb := by
  obtain ⟨s1, hnext, ⟨regs, idx, rfl⟩, hkept, hbase⟩ := abortTransfer_enters hrn wb (disarmFeed bad mid)
  obtain ⟨_, _, _, rfl⟩ := hmid
  refine ⟨_, _, hr.trans hnext, takeException_entered .dataAbort _, rfl, rfl, ⟨rfl, rfl, rfl, rfl, rfl, rfl, rfl⟩,
    fun hout => ?_, hbase, ⟨rfl, rfl, fun _ => rfl⟩, fun m x hx hne => ?_⟩
  · rw [disarmFeed_of_not_apb hout]
  · refine hkept m x hx fun y hy => ?_
    cases wb with
    | none => cases hy
    | some v =>
      obtain rfl := List.mem_singleton.mp hy
      exact .inr (hne rfl)

/-! ### LDM and STM -/

/-- The place of a register in the transfer, among the first `j`. -/
theorem take_blockRegs_getElem? {list : BitVec 16} {j k : Nat} (hk : k < 15) (hin : list.getLsbD k = true)
    (hplace : listRank list k < j) : ((blockRegs list).take j)[listRank list k]? = some (BitVec.ofNat 4 k) := by
  rw [List.getElem?_take_of_lt hplace]
  exact blockRegs_getElem? hk hin

/-- A register among the first `j` of the list has a place below `j`. -/
theorem mem_take_blockRegs {list : BitVec 16} {j : Nat} {r : RegNum} (h : r ∈ (blockRegs list).take j) :
    ∃ k, k < 15 ∧ list.getLsbD k = true ∧ listRank list k < j ∧ r = BitVec.ofNat 4 k := by
  obtain ⟨k, hk, hin, rfl⟩ := mem_blockRegs (List.mem_of_mem_take h)
  refine ⟨k, hk, hin, ?_, rfl⟩
  obtain ⟨i, hi, hget⟩ := List.mem_take_iff_getElem.mp h
  have hplace := blockRegs_getElem? hk hin
  obtain ⟨hlen, hget'⟩ := List.getElem?_eq_some_iff.mp hplace
  have heq : i = listRank list k := (blockRegs_nodup list).getElem_inj_iff.mp (hget.trans hget'.symm)
  omega

section block
variable {c : Cond} {p u sb w : Bool} {rn : RegNum} {list : BitVec 16} {s : State} {start : Word} {j bad : Nat}

/-- A ready LDM that aborts at word `j`. -/
theorem exec_ldm_abort (hready : Ready (.ldm c p u sb w rn list) s)
    (hstart : blockStart p u (s.reg rn) (blockCount list) = start) (h4 : start.toNat % 4 = 0)
    (hfit : BlockStarts sb start (blockCount list) s) (hj : j < blockCount list)
    (hmem : ∀ k, k < j → ∃ q, remap s.sys.memmap (start + BitVec.ofNat 32 (4 * k)) = some q ∧ plainMemory q)
    (hr : remap s.sys.memmap (start + BitVec.ofNat 32 (4 * j)) = some bad) (hu : (regionOf bad).kind = .unmapped) :
    ∃ s1 t, exec (.ldm c p u sb w rn list) s = .next t ∧ Entered s1 t .abort (s.pc + 8) 0x10 false
      ∧ (∃ mid, BlockAborted s mid s1 bad rn (if w then some (blockEnd u (s.reg rn) (blockCount list)) else none)
        ∧ (w = true → mid.regIn s.mode rn = s.reg rn) ∧ MemoryKept s mid)
      ∧ (∀ k, k < 15 → list.getLsbD k = true → listRank list k < j →
        ∀ q, remap s.sys.memmap (start + BitVec.ofNat 32 (4 * listRank list k)) = some q →
          s1.regIn (transferBank (sb && !list.getLsbD 15) s) (BitVec.ofNat 4 k) = s.wordAt q)
      ∧ (∀ m r, r ≠ 15 →
        (∀ k, k < 15 → list.getLsbD k = true → listRank list k < j →
          physIndex m r ≠ physIndex (transferBank (sb && !list.getLsbD 15) s) (BitVec.ofNat 4 k)) →
        (w = true → physIndex m r ≠ physIndex s.mode rn) → s1.regIn m r = s.regIn m r) := by
  have hcheck : checkLdm sb w rn list = none := hready.illFormed
  have hrn : rn ≠ 15 := checkLdm_rn hcheck
  obtain ⟨mid, hloaded, hblock⟩ := loadBlock_abort (w := w) (rn := rn) hstart hfit hj hmem hr hu
  have hexec := exec_of_ready hready rfl fun _ => rfl
  rw [readReg_of_ne s hrn, hblock] at hexec
  obtain ⟨rs, hmid⟩ := hloaded.change
  obtain ⟨s1, t, hnext, hentered, haborted⟩ :=
    blockAborted_of_abortTransfer (s := s) hrn hexec ⟨rs, s.mem, s.sramPending, hmid⟩
  -- With write-back the base is in the bank of the list and not in the list.
  have hapart (hw : w = true) {x : RegNum} (hx : x ∈ blockRegs list) :
      physIndex s.mode rn ≠ physIndex (transferBank (sb && !list.getLsbD 15) s) x := by
    obtain ⟨hnew, hbank⟩ := checkLdm_base hcheck hw
    rw [hbank]
    exact fun he => hnew (physIndex_injective s.mode rn x hrn (blockRegs_ne_pc hx) he ▸ hx)
  have hwb : (if w then some (blockEnd u (s.reg rn) (blockCount list)) else none).isSome = true → w = true := by
    cases w <;> simp
  refine ⟨s1, t, hnext, hentered, ⟨mid, haborted, fun hw => ?_, ?_⟩, fun k hk hin hplace q hq => ?_,
    fun m r hr hout hne => ?_⟩
  · exact hloaded.kept _ _ hrn fun x hx => hapart hw (List.mem_of_mem_take hx)
  · rw [hmid]
    exact ⟨rfl, rfl, fun _ => rfl⟩
  · have hget := take_blockRegs_getElem? hk hin hplace
    have hmem := List.mem_of_mem_take (List.mem_of_getElem? hget)
    rw [haborted.registers _ _ (blockRegs_ne_pc hmem) fun hsome => (hapart (hwb hsome) hmem).symm,
      hloaded.loaded _ _ q hget hq, wordAddress_aligned h4 hq]
  · rw [haborted.registers m r hr fun hsome => hne (hwb hsome)]
    refine hloaded.kept m r hr fun x hx => ?_
    obtain ⟨k, hk, hin, hplace, rfl⟩ := mem_take_blockRegs hx
    exact hout k hk hin hplace

/-- A ready STM that aborts at word `j`. -/
theorem exec_stm_abort (hready : Ready (.stm c p u sb w rn list) s) (hs : s.memoryLegal = true)
    (hstart : blockStart p u (s.reg rn) (blockCount list) = start) (h4 : start.toNat % 4 = 0)
    (hfit : BlockStarts sb start (blockCount list) s) (hj : j < blockCount list)
    (hram : ∀ k, k < j → ∃ q, remap s.sys.memmap (start + BitVec.ofNat 32 (4 * k)) = some q ∧ plainRam q
      ∧ intoPrefetch q s = false)
    (hr : remap s.sys.memmap (start + BitVec.ofNat 32 (4 * j)) = some bad) (hu : (regionOf bad).kind = .unmapped) :
    ∃ s1 t, exec (.stm c p u sb w rn list) s = .next t ∧ Entered s1 t .abort (s.pc + 8) 0x10 false
      ∧ (∃ mid, BlockAborted s mid s1 bad rn (if w then some (blockEnd u (s.reg rn) (blockCount list)) else none)
        ∧ (w = true → mid.regIn s.mode rn = s.reg rn))
      ∧ (∀ k, k < 15 → list.getLsbD k = true → listRank list k < j →
        ∀ q, remap s.sys.memmap (start + BitVec.ofNat 32 (4 * listRank list k)) = some q →
          s1.wordAt q = s.regIn (transferBank sb s) (BitVec.ofNat 4 k))
      ∧ (∀ a, (∀ k, k < j → ∀ q, remap s.sys.memmap (start + BitVec.ofNat 32 (4 * k)) = some q → a < q ∨ q + 4 ≤ a) →
        s1.byteAt a = s.byteAt a)
      ∧ RegistersKept s s1 (if w then [rn] else []) := by
  have hrn : rn ≠ 15 := checkStm_rn hready.illFormed
  have haligned {k q : Nat} (hq : remap s.sys.memmap (start + BitVec.ofNat 32 (4 * k)) = some q) : q - q % 4 = q :=
    wordAddress_aligned h4 hq
  obtain ⟨mid, hstored, hblock⟩ := storeBlock_abort (w := w) (rn := rn) hs hstart hfit hj (fun k hk => by
    obtain ⟨q, hq, hp, hpre⟩ := hram k hk
    exact ⟨q, hq, hp, by rwa [haligned hq]⟩) hr hu
  have hexec := exec_of_ready hready rfl fun _ => rfl
  rw [readReg_of_ne s hrn, hblock] at hexec
  obtain ⟨mem, pending, hmid⟩ := hstored.change
  obtain ⟨s1, t, hnext, hentered, haborted⟩ :=
    blockAborted_of_abortTransfer (s := s) hrn hexec ⟨s.regs, mem, pending, hmid⟩
  obtain ⟨-, -, hbytes⟩ := haborted.memory
  have hregs (m : Mode) {r : RegNum} (hr : r ≠ 15) : mid.regIn m r = s.regIn m r := by
    rw [hmid, regIn_of_ne _ _ _ hr, regIn_of_ne _ _ _ hr]
  refine ⟨s1, t, hnext, hentered, ⟨mid, haborted, fun _ => hregs _ hrn⟩, fun k hk hin hplace q hq => ?_, fun a ha => ?_,
    fun m r hr hout => ?_⟩
  · have hword := hstored.stored _ _ q (by rw [List.getElem?_map, take_blockRegs_getElem? hk hin hplace]; rfl) hq
    rw [haligned hq] at hword
    rw [wordAt_congr fun i _ => hbytes _, hword]
  · rw [hbytes, hstored.kept a fun k hk q hq => ?_]
    rw [haligned hq]
    rw [List.length_map, length_take_blockRegs hj] at hk
    exact ha k hk q hq
  · rw [haborted.registers m r hr fun hsome => ?_, hregs m hr]
    cases w with
    | false => cases hsome
    | true => exact (hout rn (List.mem_singleton_self rn)).resolve_left hrn

end block

/-- With write-back the base is the old or the written-back value. -/
theorem BlockAborted.base_of_writeback {s mid s1 : State} {bad : Nat} {rn : RegNum} {w : Bool} {final : Word}
    (h : BlockAborted s mid s1 bad rn (if w then some final else none)) (hmid : w = true → mid.regIn s.mode rn = s.reg rn)
    (hw : w = true) : s1.regIn s.mode rn = s.reg rn ∨ s1.regIn s.mode rn = final := by
  rw [← hmid hw]
  exact h.base final (if_pos hw)

/-- Settles O36: the words before the one that aborts are transferred, and the abort keeps all but the base. -/
theorem blockTransfersThatAbort : Obligations.BlockTransfersThatAbort := by
  unfold Obligations.BlockTransfersThatAbort
  intro c p u sb w rn list s j bad n bytes start bank aborts h4 hroom hj hspsr hr hu
  have hstart : blockStart p u (s.reg rn) (blockCount list) = start := blockStart_eq_ite p u (s.reg rn) n
  have hfit : BlockStarts sb start (blockCount list) s := blockStarts_of_aligned hspsr hroom
  refine ⟨fun hready hmem => ?ldm, fun hready hs hram => ?stm⟩
  case ldm =>
    obtain ⟨s1, t, hnext, hentered, ⟨mid, haborted, hbase, hmidMem, hmidPending, hmidBytes⟩, hloaded, hkept⟩ :=
      exec_ldm_abort hready hstart h4 hfit hj hmem hr hu
    obtain ⟨hmem, hpending, hbytes⟩ := haborted.memory
    rw [transferBank_eq_ite] at hloaded hkept
    exact ⟨s1, t, hnext, hentered, haborted.cpsr, haborted.spsr, haborted.devices, haborted.sys,
      haborted.base_of_writeback hbase,
      ⟨hmem.trans hmidMem, hpending.trans hmidPending, fun a => (hbytes a).trans (hmidBytes a)⟩, hloaded, hkept⟩
  case stm =>
    obtain ⟨s1, t, hnext, hentered, ⟨mid, haborted, hbase⟩, hstored, hbytes, hkept⟩ :=
      exec_stm_abort hready hs hstart h4 hfit hj hram hr hu
    exact ⟨s1, t, hnext, hentered, haborted.cpsr, haborted.spsr, haborted.devices, haborted.sys,
      haborted.base_of_writeback hbase, hstored, hbytes, hkept⟩

end Sys2Proof.Machine
end
